-- ==== Sys2Proof/Word.lean ====
section
/-! DEFINITION. The two word sizes of the core: 8-bit data and 16-bit addresses (00_scope R8). -/

namespace Sys2Proof

/-- A data byte (00_scope R8: data width 8 bits). -/
abbrev Byte := BitVec 8

/-- An address (00_scope R8: address width 16 bits). -/
abbrev Addr := BitVec 16

end Sys2Proof
end

