-- ==== Sys2Proof/Machine/Bits.lean ====
section
/-! DEFINITION. The bit-field, extension and byte-order helpers of the notation (00_scope R10). -/

namespace Sys2Proof.Machine

/-- `zext_16(v)` (00_scope R10). -/
def zext (v : Byte) : Addr := v.setWidth 16

/-- `sext_16(v)` (00_scope R10). -/
def sext (v : Byte) : Addr := v.signExtend 16

/-- `hi:lo`, the 16-bit word of two bytes (00_scope R10). -/
def word (hi lo : Byte) : Addr := hi ++ lo

/-- Bits 7:0 of a word. -/
def loByte (w : Addr) : Byte := w.extractLsb' 0 8

/-- Bits 15:8 of a word. -/
def hiByte (w : Addr) : Byte := w.extractLsb' 8 8

/-- The page slot `a[15:12]` (20_memory R61). -/
def pageSlot (a : Addr) : Fin 16 := (a.extractLsb' 12 4).toFin

/-- The offset in the page, `a[11:0]` (20_memory R61). -/
def pageOffset (a : Addr) : Nat := (a.extractLsb' 0 12).toNat

end Sys2Proof.Machine
end

