-- ==== Sys2Proof/Machine/OpcodeSets.lean ====
section
/-! DEFINITION. The two opcode sets the spec names as parameters, their defaults, and the class of a byte under them (30_encoding R103, R113 to R115). -/

namespace Sys2Proof.Machine

/-- The parameters LOCK_OPCODES and DOP_OPCODES (00_scope R9): any two sets of bytes. -/
structure OpcodeSets where
  lock : List Byte
  dop : List Byte
  deriving DecidableEq, Repr

/-- The default of LOCK_OPCODES (30_encoding R113). -/
def lockOpcodes : List Byte :=
  [0x02, 0x12, 0x22, 0x32, 0x42, 0x52, 0x62, 0x72, 0x92, 0xB2, 0xD2, 0xF2]

/-- The default of DOP_OPCODES (30_encoding R114). -/
def dopOpcodes : List Byte :=
  [0x04, 0x14, 0x34, 0x44, 0x54, 0x64, 0x74, 0x80, 0x82, 0x89, 0xC2, 0xD4, 0xE2, 0xF4]

/-- Both sets at their defaults. -/
def defaultSets : OpcodeSets := { lock := lockOpcodes, dop := dopOpcodes }

/-- Which rule decides what a byte is: the lock opcodes are asked first, then the double no-ops, then the opcode map
(30_encoding R103). -/
inductive OpcodeClass where
  | lock
  | dop
  | map
  deriving DecidableEq, Repr

/-- The class of a byte. That a byte in both sets, or an instruction's byte put into a set, goes by R103's order is the
model's choice: the defaults never overlap (notes/assumptions/13.md). -/
def OpcodeSets.classOf (sets : OpcodeSets) (op : Byte) : OpcodeClass :=
  if sets.lock.contains op then .lock else if sets.dop.contains op then .dop else .map

/-- The fifteen unknown opcodes whose low bits fall inside a group (30_encoding R115 (b) and (c)). -/
def inGroupUnknown : List Byte :=
  [0x1A, 0x3A, 0x5A, 0x7A, 0x9E, 0xDA, 0xFA,
   0x0C, 0x1C, 0x3C, 0x5C, 0x7C, 0x9C, 0xDC, 0xFC]

/-- The bytes that are none of the 151 instruction opcodes (30_encoding R115): low bits 11, the fifteen in-group bytes, and
the bytes of the default sets, which are unknown opcodes where a set does not hold them (R114). -/
def notInstruction (op : Byte) : Bool :=
  op.toNat % 4 == 3 || inGroupUnknown.contains op || lockOpcodes.contains op || dopOpcodes.contains op

end Sys2Proof.Machine
end

