-- ==== Sys2Proof/Syntax.lean ====
section
/-! DEFINITION. The instructions: one constructor per mnemonic of spec/opcode_table.json (56 instruction mnemonics, DOP, KIL, UNK), each carrying its operand form. A row of the table is a constructor together with one operand form (notes/assumptions/21.md). -/

namespace Sys2Proof

/-- The nine addressing modes of 40_addressing_modes R131, with the operand as 30_encoding R111 assembles it:
`d8` for the two-byte formats, `a16` (high byte : low byte) for the three-byte formats. -/
inductive Mode where
  | imm (d : Byte)   -- immediate, R132
  | zp  (d : Byte)   -- zero-page, R133
  | zpx (d : Byte)   -- zero-page,X, R134
  | zpy (d : Byte)   -- zero-page,Y, R135
  | abs (a : Addr)   -- absolute, R136
  | abx (a : Addr)   -- absolute,X, R137
  | aby (a : Addr)   -- absolute,Y, R138
  | izx (d : Byte)   -- (zero-page,X), R139
  | izy (d : Byte)   -- (zero-page),Y, R140
  deriving DecidableEq, Repr

/-- The operand of a shift or rotate: the accumulator form (R141) or a memory form (42_shift_rmw_group2 R171). -/
inductive Target where
  | acc
  | mem (m : Mode)
  deriving DecidableEq, Repr

/-- The two forms of JMP: absolute (45_control_flow R250) and indirect (R251, 40_addressing_modes R143). -/
inductive JmpTarget where
  | abs (a : Addr)
  | ind (a : Addr)
  deriving DecidableEq, Repr

/-- The instructions of the opcode map (30_encoding R112). -/
inductive Instr where
  -- group 1 (30_encoding R104)
  | ora (m : Mode)
  | and (m : Mode)
  | eor (m : Mode)
  | adc (m : Mode)
  | sta (m : Mode)
  | lda (m : Mode)
  | cmp (m : Mode)
  | sbc (m : Mode)
  -- group 2 (30_encoding R105)
  | asl (t : Target)
  | rol (t : Target)
  | lsr (t : Target)
  | ror (t : Target)
  | stx (m : Mode)
  | ldx (m : Mode)
  | dec (m : Mode)
  | inc (m : Mode)
  -- group 3 (30_encoding R106)
  | bit (m : Mode)
  | sty (m : Mode)
  | ldy (m : Mode)
  | cpy (m : Mode)
  | cpx (m : Mode)
  -- single-byte instructions (30_encoding R107) and the double no-op (R114)
  | nop
  | dop (op : Byte) (d : Byte)
  | inx
  | iny
  | dex
  | dey
  | tax
  | tay
  | txa
  | tya
  | tsx
  | txs
  | pha
  | php
  | pla
  | plp
  | clc
  | sec
  | cli
  | sei
  | clv
  | cld
  | sed
  -- branches, with the relative operand byte (30_encoding R108)
  | bpl (d : Byte)
  | bmi (d : Byte)
  | bvc (d : Byte)
  | bvs (d : Byte)
  | bcc (d : Byte)
  | bcs (d : Byte)
  | bne (d : Byte)
  | beq (d : Byte)
  -- jumps, call, return, break (30_encoding R107, R109)
  | jmp (t : JmpTarget)
  | jsr (a : Addr)
  | rts
  | brk
  | rti
  -- halting opcodes, with the opcode byte (30_encoding R113, R115)
  | kil (op : Byte)
  | unk (op : Byte)
  deriving DecidableEq, Repr

end Sys2Proof
end

