-- ==== Sys2Proof/WellFormed.lean ====
section
/-! DEFINITION. Which operand forms each instruction has an encoding for (30_encoding R104 to R110, R115; 40_addressing_modes R145). -/

namespace Sys2Proof

/-- The eight modes of group 1 (30_encoding R104): all but zero-page,Y. -/
def Mode.group1 : Mode → Bool
  | .zpy _ => false
  | .imm _ | .zp _ | .zpx _ | .abs _ | .abx _ | .aby _ | .izx _ | .izy _ => true

/-- STA: the group 1 modes but immediate (30_encoding R104). -/
def Mode.group1Store : Mode → Bool
  | .imm _ | .zpy _ => false
  | .zp _ | .zpx _ | .abs _ | .abx _ | .aby _ | .izx _ | .izy _ => true

/-- The memory modes of the read-modify-write instructions (30_encoding R105, 42_shift_rmw_group2 R171). -/
def Mode.rmw : Mode → Bool
  | .zp _ | .zpx _ | .abs _ | .abx _ => true
  | .imm _ | .zpy _ | .aby _ | .izx _ | .izy _ => false

/-- LDX: immediate, zero-page, absolute, zero-page,Y, absolute,Y (30_encoding R105, R110). -/
def Mode.ldx : Mode → Bool
  | .imm _ | .zp _ | .abs _ | .zpy _ | .aby _ => true
  | .zpx _ | .abx _ | .izx _ | .izy _ => false

/-- STX: zero-page, absolute, zero-page,Y (30_encoding R105, R110). -/
def Mode.stx : Mode → Bool
  | .zp _ | .abs _ | .zpy _ => true
  | .imm _ | .zpx _ | .abx _ | .aby _ | .izx _ | .izy _ => false

/-- LDY: immediate, zero-page, absolute, zero-page,X, absolute,X (30_encoding R106). -/
def Mode.ldy : Mode → Bool
  | .imm _ | .zp _ | .abs _ | .zpx _ | .abx _ => true
  | .zpy _ | .aby _ | .izx _ | .izy _ => false

/-- STY: zero-page, absolute, zero-page,X (30_encoding R106). -/
def Mode.sty : Mode → Bool
  | .zp _ | .abs _ | .zpx _ => true
  | .imm _ | .zpy _ | .abx _ | .aby _ | .izx _ | .izy _ => false

/-- BIT: zero-page, absolute (30_encoding R106). -/
def Mode.bit : Mode → Bool
  | .zp _ | .abs _ => true
  | .imm _ | .zpx _ | .zpy _ | .abx _ | .aby _ | .izx _ | .izy _ => false

/-- CPY and CPX: immediate, zero-page, absolute (30_encoding R106). -/
def Mode.compareIndex : Mode → Bool
  | .imm _ | .zp _ | .abs _ => true
  | .zpx _ | .zpy _ | .abx _ | .aby _ | .izx _ | .izy _ => false

/-- The shifts and rotates: the accumulator or a read-modify-write mode (30_encoding R105). -/
def Target.shift : Target → Bool
  | .acc => true
  | .mem m => m.rmw

/-- An instruction is well formed when the opcode map has a byte for its operand form. KIL and DOP take any byte, since the
sets are parameters; UNK takes a byte that is no instruction's (30_encoding R115). -/
def Instr.wf : Instr → Bool
  | .ora m | .and m | .eor m | .adc m | .lda m | .cmp m | .sbc m => m.group1
  | .sta m => m.group1Store
  | .asl t | .rol t | .lsr t | .ror t => t.shift
  | .stx m => m.stx
  | .ldx m => m.ldx
  | .dec m | .inc m => m.rmw
  | .bit m => m.bit
  | .sty m => m.sty
  | .ldy m => m.ldy
  | .cpy m | .cpx m => m.compareIndex
  | .dop _ _ | .kil _ => true
  | .unk op => Machine.notInstruction op
  | .nop | .inx | .iny | .dex | .dey | .tax | .tay | .txa | .tya | .tsx | .txs => true
  | .pha | .php | .pla | .plp | .clc | .sec | .cli | .sei | .clv | .cld | .sed => true
  | .bpl _ | .bmi _ | .bvc _ | .bvs _ | .bcc _ | .bcs _ | .bne _ | .beq _ => true
  | .jmp _ | .jsr _ | .rts | .brk | .rti => true

end Sys2Proof
end

