-- ==== Sys2Proof/Decode.lean ====
section
/-! DEFINITION. The decoder, written from the whole opcode map (30_encoding R112) and the operand assembly rule (R111); after it the encoder, written from the bit fields of R102 and R104 to R110. -/

namespace Sys2Proof

open Machine (word loByte hiByte OpcodeSets OpcodeClass defaultSets)

/-- How many operand bytes an addressing mode takes (30_encoding R100). -/
def Mode.operandBytes : Mode → Nat
  | .imm _ | .zp _ | .zpx _ | .zpy _ | .izx _ | .izy _ => 1
  | .abs _ | .abx _ | .aby _ => 2

/-- How many operand bytes an instruction has (30_encoding R100, R101; BRK is format F1). -/
def Instr.operandBytes : Instr → Nat
  | .ora m | .and m | .eor m | .adc m | .sta m | .lda m | .cmp m | .sbc m => m.operandBytes
  | .stx m | .ldx m | .dec m | .inc m | .bit m | .sty m | .ldy m | .cpy m | .cpx m => m.operandBytes
  | .asl t | .rol t | .lsr t | .ror t => match t with
    | .acc => 0
    | .mem m => m.operandBytes
  | .dop _ _ => 1
  | .bpl _ | .bmi _ | .bvc _ | .bvs _ | .bcc _ | .bcs _ | .bne _ | .beq _ => 1
  | .jmp _ | .jsr _ => 2
  | .nop | .inx | .iny | .dex | .dey | .tax | .tay | .txa | .tya | .tsx | .txs => 0
  | .pha | .php | .pla | .plp | .clc | .sec | .cli | .sei | .clv | .cld | .sed => 0
  | .rts | .brk | .rti | .kil _ | .unk _ => 0

/-- One cell of the opcode map: the instruction made from the opcode byte and the two bytes after it. -/
abbrev MapCell := Byte → Byte → Byte → Instr

/-! The notation of the map's cells (30_encoding R111, R112). -/

def cellImplied (i : Instr) : MapCell := fun _ _ _ => i
def cellImm (f : Mode → Instr) : MapCell := fun _ b1 _ => f (.imm b1)
def cellZp (f : Mode → Instr) : MapCell := fun _ b1 _ => f (.zp b1)
def cellZpx (f : Mode → Instr) : MapCell := fun _ b1 _ => f (.zpx b1)
def cellZpy (f : Mode → Instr) : MapCell := fun _ b1 _ => f (.zpy b1)
def cellAbs (f : Mode → Instr) : MapCell := fun _ b1 b2 => f (.abs (word b2 b1))
def cellAbx (f : Mode → Instr) : MapCell := fun _ b1 b2 => f (.abx (word b2 b1))
def cellAby (f : Mode → Instr) : MapCell := fun _ b1 b2 => f (.aby (word b2 b1))
def cellIzx (f : Mode → Instr) : MapCell := fun _ b1 _ => f (.izx b1)
def cellIzy (f : Mode → Instr) : MapCell := fun _ b1 _ => f (.izy b1)
def cellAcc (f : Target → Instr) : MapCell := fun _ _ _ => f .acc
def cellTgt (f : Target → Instr) : Mode → Instr := fun m => f (.mem m)
def cellRel (f : Byte → Instr) : MapCell := fun _ b1 _ => f b1
def cellJmp (f : Addr → Instr) : MapCell := fun _ b1 b2 => f (word b2 b1)
def cellUnk : MapCell := fun op _ _ => .unk op

/-! The cells where the map shows the default sets. The sets are asked before the map, so a byte that comes to one of these
is in neither set: an unknown opcode (30_encoding R103, R114, R115). -/

def cellDop : MapCell := cellUnk
def cellKil : MapCell := cellUnk

/-- The opcode map, row = `opcode[7:4]`, column = `opcode[3:0]` (30_encoding R112). -/
def opcodeMap : List (List MapCell) :=
  [ -- 0x
    [cellImplied .brk, cellIzx .ora, cellKil, cellUnk, cellDop, cellZp .ora, cellZp (cellTgt .asl), cellUnk,
     cellImplied .php, cellImm .ora, cellAcc .asl, cellUnk, cellUnk, cellAbs .ora, cellAbs (cellTgt .asl), cellUnk],
    -- 1x
    [cellRel .bpl, cellIzy .ora, cellKil, cellUnk, cellDop, cellZpx .ora, cellZpx (cellTgt .asl), cellUnk,
     cellImplied .clc, cellAby .ora, cellUnk, cellUnk, cellUnk, cellAbx .ora, cellAbx (cellTgt .asl), cellUnk],
    -- 2x
    [cellJmp .jsr, cellIzx .and, cellKil, cellUnk, cellZp .bit, cellZp .and, cellZp (cellTgt .rol), cellUnk,
     cellImplied .plp, cellImm .and, cellAcc .rol, cellUnk, cellAbs .bit, cellAbs .and, cellAbs (cellTgt .rol), cellUnk],
    -- 3x
    [cellRel .bmi, cellIzy .and, cellKil, cellUnk, cellDop, cellZpx .and, cellZpx (cellTgt .rol), cellUnk,
     cellImplied .sec, cellAby .and, cellUnk, cellUnk, cellUnk, cellAbx .and, cellAbx (cellTgt .rol), cellUnk],
    -- 4x
    [cellImplied .rti, cellIzx .eor, cellKil, cellUnk, cellDop, cellZp .eor, cellZp (cellTgt .lsr), cellUnk,
     cellImplied .pha, cellImm .eor, cellAcc .lsr, cellUnk, cellJmp (fun a => .jmp (.abs a)), cellAbs .eor,
     cellAbs (cellTgt .lsr), cellUnk],
    -- 5x
    [cellRel .bvc, cellIzy .eor, cellKil, cellUnk, cellDop, cellZpx .eor, cellZpx (cellTgt .lsr), cellUnk,
     cellImplied .cli, cellAby .eor, cellUnk, cellUnk, cellUnk, cellAbx .eor, cellAbx (cellTgt .lsr), cellUnk],
    -- 6x
    [cellImplied .rts, cellIzx .adc, cellKil, cellUnk, cellDop, cellZp .adc, cellZp (cellTgt .ror), cellUnk,
     cellImplied .pla, cellImm .adc, cellAcc .ror, cellUnk, cellJmp (fun a => .jmp (.ind a)), cellAbs .adc,
     cellAbs (cellTgt .ror), cellUnk],
    -- 7x
    [cellRel .bvs, cellIzy .adc, cellKil, cellUnk, cellDop, cellZpx .adc, cellZpx (cellTgt .ror), cellUnk,
     cellImplied .sei, cellAby .adc, cellUnk, cellUnk, cellUnk, cellAbx .adc, cellAbx (cellTgt .ror), cellUnk],
    -- 8x
    [cellDop, cellIzx .sta, cellDop, cellUnk, cellZp .sty, cellZp .sta, cellZp .stx, cellUnk,
     cellImplied .dey, cellDop, cellImplied .txa, cellUnk, cellAbs .sty, cellAbs .sta, cellAbs .stx, cellUnk],
    -- 9x
    [cellRel .bcc, cellIzy .sta, cellKil, cellUnk, cellZpx .sty, cellZpx .sta, cellZpy .stx, cellUnk,
     cellImplied .tya, cellAby .sta, cellImplied .txs, cellUnk, cellUnk, cellAbx .sta, cellUnk, cellUnk],
    -- Ax
    [cellImm .ldy, cellIzx .lda, cellImm .ldx, cellUnk, cellZp .ldy, cellZp .lda, cellZp .ldx, cellUnk,
     cellImplied .tay, cellImm .lda, cellImplied .tax, cellUnk, cellAbs .ldy, cellAbs .lda, cellAbs .ldx, cellUnk],
    -- Bx
    [cellRel .bcs, cellIzy .lda, cellKil, cellUnk, cellZpx .ldy, cellZpx .lda, cellZpy .ldx, cellUnk,
     cellImplied .clv, cellAby .lda, cellImplied .tsx, cellUnk, cellAbx .ldy, cellAbx .lda, cellAby .ldx, cellUnk],
    -- Cx
    [cellImm .cpy, cellIzx .cmp, cellDop, cellUnk, cellZp .cpy, cellZp .cmp, cellZp .dec, cellUnk,
     cellImplied .iny, cellImm .cmp, cellImplied .dex, cellUnk, cellAbs .cpy, cellAbs .cmp, cellAbs .dec, cellUnk],
    -- Dx
    [cellRel .bne, cellIzy .cmp, cellKil, cellUnk, cellDop, cellZpx .cmp, cellZpx .dec, cellUnk,
     cellImplied .cld, cellAby .cmp, cellUnk, cellUnk, cellUnk, cellAbx .cmp, cellAbx .dec, cellUnk],
    -- Ex
    [cellImm .cpx, cellIzx .sbc, cellDop, cellUnk, cellZp .cpx, cellZp .sbc, cellZp .inc, cellUnk,
     cellImplied .inx, cellImm .sbc, cellImplied .nop, cellUnk, cellAbs .cpx, cellAbs .sbc, cellAbs .inc, cellUnk],
    -- Fx
    [cellRel .beq, cellIzy .sbc, cellKil, cellUnk, cellDop, cellZpx .sbc, cellZpx .inc, cellUnk,
     cellImplied .sed, cellAby .sbc, cellUnk, cellUnk, cellUnk, cellAbx .sbc, cellAbx .inc, cellUnk] ]

/-- What the opcode map gives a byte that is in neither opcode set (30_encoding R103, R112). -/
def mapInstr (op b1 b2 : Byte) : Instr :=
  (((opcodeMap[op.toNat / 16]?).getD [])[op.toNat % 16]?).getD cellUnk op b1 b2

/-- The instruction an opcode byte and the two bytes after it stand for, in the decode order of 30_encoding R103; total, since
every byte has exactly one class. -/
def decodeOp (sets : OpcodeSets) (op b1 b2 : Byte) : Instr :=
  match sets.classOf op with
  | .lock => .kil op
  | .dop => .dop op b1
  | .map => mapInstr op b1 b2

/-- Why a byte string holds no whole instruction. -/
inductive DecodeError where
  /-- There is no opcode byte. -/
  | empty
  /-- The operand bytes the opcode needs are not all there. -/
  | truncated (op : Byte)
  deriving DecidableEq, Repr

/-- The instruction at the head of a byte string, with the bytes after it (30_encoding R100). -/
def decode (sets : OpcodeSets) : List Byte → Except DecodeError (Instr × List Byte)
  | [] => .error .empty
  | op :: rest =>
    let i := decodeOp sets op (rest.getD 0 0) (rest.getD 1 0)
    if rest.length < i.operandBytes then .error (.truncated op) else .ok (i, rest.drop i.operandBytes)

/-! The encoder. -/

/-- The opcode byte with fields `aaa`, `bbb`, `cc` (30_encoding R102). -/
def fieldsToOpcode (aaa bbb cc : Nat) : Byte := BitVec.ofNat 8 (aaa * 32 + bbb * 4 + cc)

/-- `bbb` of a group 1 mode (30_encoding R104); zero-page,Y is no group 1 mode. -/
def Mode.bbb1 : Mode → Nat
  | .izx _ => 0
  | .zp _ => 1
  | .imm _ => 2
  | .abs _ => 3
  | .izy _ => 4
  | .zpx _ | .zpy _ => 5
  | .aby _ => 6
  | .abx _ => 7

/-- `bbb` of a group 2 or group 3 mode (30_encoding R105, R106, R110): the Y-indexed forms stand where the X-indexed
ones would. The two indirect modes belong to neither group. -/
def Mode.bbb2 : Mode → Nat
  | .imm _ => 0
  | .zp _ => 1
  | .abs _ => 3
  | .izx _ => 4
  | .zpx _ | .zpy _ => 5
  | .izy _ => 6
  | .abx _ | .aby _ => 7

/-- `bbb` of a shift or rotate operand (30_encoding R105). -/
def Target.bbb : Target → Nat
  | .acc => 2
  | .mem m => m.bbb2

/-- A branch opcode, `xx y 10000` (30_encoding R108). -/
def branchOpcode (xx y : Nat) : Byte := BitVec.ofNat 8 (xx * 64 + y * 32 + 16)

/-- The opcode byte of a well-formed instruction (30_encoding R104 to R109; the byte itself for DOP, KIL and UNK). -/
def Instr.opcode : Instr → Byte
  | .ora m => fieldsToOpcode 0 m.bbb1 1
  | .and m => fieldsToOpcode 1 m.bbb1 1
  | .eor m => fieldsToOpcode 2 m.bbb1 1
  | .adc m => fieldsToOpcode 3 m.bbb1 1
  | .sta m => fieldsToOpcode 4 m.bbb1 1
  | .lda m => fieldsToOpcode 5 m.bbb1 1
  | .cmp m => fieldsToOpcode 6 m.bbb1 1
  | .sbc m => fieldsToOpcode 7 m.bbb1 1
  | .asl t => fieldsToOpcode 0 t.bbb 2
  | .rol t => fieldsToOpcode 1 t.bbb 2
  | .lsr t => fieldsToOpcode 2 t.bbb 2
  | .ror t => fieldsToOpcode 3 t.bbb 2
  | .stx m => fieldsToOpcode 4 m.bbb2 2
  | .ldx m => fieldsToOpcode 5 m.bbb2 2
  | .dec m => fieldsToOpcode 6 m.bbb2 2
  | .inc m => fieldsToOpcode 7 m.bbb2 2
  | .bit m => fieldsToOpcode 1 m.bbb2 0
  | .sty m => fieldsToOpcode 4 m.bbb2 0
  | .ldy m => fieldsToOpcode 5 m.bbb2 0
  | .cpy m => fieldsToOpcode 6 m.bbb2 0
  | .cpx m => fieldsToOpcode 7 m.bbb2 0
  | .nop => 0xEA
  | .dop op _ => op
  | .inx => 0xE8
  | .iny => 0xC8
  | .dex => 0xCA
  | .dey => 0x88
  | .tax => 0xAA
  | .tay => 0xA8
  | .txa => 0x8A
  | .tya => 0x98
  | .tsx => 0xBA
  | .txs => 0x9A
  | .pha => 0x48
  | .php => 0x08
  | .pla => 0x68
  | .plp => 0x28
  | .clc => 0x18
  | .sec => 0x38
  | .cli => 0x58
  | .sei => 0x78
  | .clv => 0xB8
  | .cld => 0xD8
  | .sed => 0xF8
  | .bpl _ => branchOpcode 0 0
  | .bmi _ => branchOpcode 0 1
  | .bvc _ => branchOpcode 1 0
  | .bvs _ => branchOpcode 1 1
  | .bcc _ => branchOpcode 2 0
  | .bcs _ => branchOpcode 2 1
  | .bne _ => branchOpcode 3 0
  | .beq _ => branchOpcode 3 1
  | .jmp (.abs _) => 0x4C
  | .jmp (.ind _) => 0x6C
  | .jsr _ => 0x20
  | .rts => 0x60
  | .brk => 0x00
  | .rti => 0x40
  | .kil op => op
  | .unk op => op

/-- The two bytes of an absolute operand, low byte first (30_encoding R101). -/
def addrBytes (a : Addr) : List Byte := [loByte a, hiByte a]

/-- The operand bytes of an addressing mode (30_encoding R111). -/
def Mode.bytes : Mode → List Byte
  | .imm d | .zp d | .zpx d | .zpy d | .izx d | .izy d => [d]
  | .abs a | .abx a | .aby a => addrBytes a

/-- The operand bytes of an instruction (30_encoding R101, R111). -/
def Instr.operandList : Instr → List Byte
  | .ora m | .and m | .eor m | .adc m | .sta m | .lda m | .cmp m | .sbc m => m.bytes
  | .stx m | .ldx m | .dec m | .inc m | .bit m | .sty m | .ldy m | .cpy m | .cpx m => m.bytes
  | .asl t | .rol t | .lsr t | .ror t => match t with
    | .acc => []
    | .mem m => m.bytes
  | .dop _ d => [d]
  | .bpl d | .bmi d | .bvc d | .bvs d | .bcc d | .bcs d | .bne d | .beq d => [d]
  | .jmp (.abs a) | .jmp (.ind a) | .jsr a => addrBytes a
  | .nop | .inx | .iny | .dex | .dey | .tax | .tay | .txa | .tya | .tsx | .txs => []
  | .pha | .php | .pla | .plp | .clc | .sec | .cli | .sei | .clv | .cld | .sed => []
  | .rts | .brk | .rti | .kil _ | .unk _ => []

/-- The bytes of a well-formed instruction (30_encoding R100, R101). -/
def encode (i : Instr) : List Byte := i.opcode :: i.operandList

/-- The class an instruction's opcode byte must have. -/
def Instr.opcodeClass : Instr → OpcodeClass
  | .kil _ => .lock
  | .dop _ _ => .dop
  | .ora _ | .and _ | .eor _ | .adc _ | .sta _ | .lda _ | .cmp _ | .sbc _ => .map
  | .asl _ | .rol _ | .lsr _ | .ror _ | .stx _ | .ldx _ | .dec _ | .inc _ => .map
  | .bit _ | .sty _ | .ldy _ | .cpy _ | .cpx _ => .map
  | .nop | .inx | .iny | .dex | .dey | .tax | .tay | .txa | .tya | .tsx | .txs => .map
  | .pha | .php | .pla | .plp | .clc | .sec | .cli | .sei | .clv | .cld | .sed => .map
  | .bpl _ | .bmi _ | .bvc _ | .bvs _ | .bcc _ | .bcs _ | .bne _ | .beq _ => .map
  | .jmp _ | .jsr _ | .rts | .brk | .rti | .unk _ => .map

/-- An instruction has an encoding under two opcode sets when it is well formed and the sets give its opcode byte its own
class (30_encoding R103). -/
def Instr.hasEncoding (sets : OpcodeSets) (i : Instr) : Bool :=
  i.wf && decide (sets.classOf i.opcode = i.opcodeClass)

/-- The three bytes at the addresses of an instruction whose bits are `w`, with every bit from `nbits` on zero; three
bytes are the longest instruction (30_encoding R101). -/
def tableWordBytes (nbits w : Nat) : List Byte :=
  let n := w % 2 ^ nbits
  [BitVec.ofNat 8 n, BitVec.ofNat 8 (n / 256), BitVec.ofNat 8 (n / 65536)]

/-- The instruction the decoder reads from an opcode-table word, under the default opcode sets, which the table has. -/
def decodeTableWord (nbits w : Nat) : Option Instr :=
  match decode defaultSets (tableWordBytes nbits w) with
  | .ok (i, _) => some i
  | .error _ => none

end Sys2Proof
end

