-- ==== Sys2Proof/Config.lean ====
section
/-! DEFINITION. What the spec leaves open: free values and open parameters, as constants with no body. Nothing can be proved of any value of them. -/

namespace Sys2Proof.Config

/-- The value of the temp scratch register after a step: any byte, drawn afresh (10_state R28, 93 U1; notes/assumptions/6.md). -/
opaque freeScratch : Nat → Byte

/-- The debug bit after an unknown opcode: either bit (10_state R36, 93 U2; notes/assumptions/7.md). -/
opaque freeDebug : Nat → Bool

/-- How many bytes past its opcode an in-group unknown opcode leaves PC, less one: 0, 1 or 2 (45_control_flow R262, 93 U3;
notes/assumptions/8.md). -/
opaque freeSkip : Nat → Fin 3

/-- CYCLE_COST of the opcodes whose entry the spec leaves open (46_dispatch_loop R278, 93 U14; notes/assumptions/9.md). -/
opaque openCost : Byte → Nat

end Sys2Proof.Config
end

