-- ==== Sys2Proof/Machine/Layout.lean ====
section
/-! DEFINITION. The fixed addresses of the map (20_memory R71, R74) and the mirror images of a low address (R67, R69). -/

namespace Sys2Proof.Machine

/-- The stack page base (10_state R24, 00_scope R8). -/
def stackBase : Addr := 0x0100

/-- The break vector (20_memory R73). -/
def breakVector : Addr := 0xFFFE

/-- The reset vector (20_memory R73), read only by the default of the initial PC (10_state R47). -/
def resetVector : Addr := 0xFFFC

/-- The non-maskable vector (20_memory R73), which no rule reads. -/
def nonMaskableVector : Addr := 0xFFFA

/-- The base of the PRG-ROM window (20_memory R71). -/
def prgBase : Addr := 0x8000

/-- The indexes in FLAT of the four images of a low address (20_memory R67, R69). -/
def mirrorImages (a : Addr) : List Nat :=
  [0, 1, 2, 3].map fun k => a.toNat % 0x0800 + k * 0x0800

end Sys2Proof.Machine
end

