-- ==== Sys2Proof/Machine/Params.lean ====
section
/-! DEFINITION. The parameters of the machine (00_scope R9): the write policies, the cost table, the opcode sets; and their defaults. -/

namespace Sys2Proof.Machine

/-- The parameters MIRROR, RO_ENFORCE, MIRROR_LIMIT, EXP_ROM_LO, EXP_ROM_HI, CYCLE_COST, LOCK_OPCODES and DOP_OPCODES (00_scope
R9). They are configuration, fixed for the life of a mapper or session (10_state R46), held in the state so that one step
function serves every setting (notes/assumptions/11.md). A setting has its expansion-ROM window outside the stack page: the
stack page is never guarded, under any configuration (44_single_byte R220, 45_control_flow R252, 60_exceptions R296;
notes/assumptions/31.md). -/
structure Params where
  mirror : Bool
  roEnforce : Bool
  mirrorLimit : Addr
  expRomLo : Addr
  expRomHi : Addr
  /-- the expansion-ROM window is below the stack page, above it, or empty -/
  stackUnguarded : expRomHi < 0x0100 ∨ 0x0200 ≤ expRomLo ∨ expRomHi < expRomLo
  cost : Vector Nat 256
  sets : OpcodeSets
  deriving DecidableEq, Repr

/-- The addresses RO_ENFORCE guards: the top half and the expansion-ROM window (20_memory R67, R77). -/
def Params.guarded (p : Params) (a : Addr) : Bool :=
  decide (prgBase ≤ a) || (decide (p.expRomLo ≤ a) && decide (a ≤ p.expRomHi))

/-- `CYCLE_COST[op]` (46_dispatch_loop R271). -/
def Params.costOf (p : Params) (op : Byte) : Nat := p.cost[op.toNat]'op.isLt

/-! The default cost table. -/

/-- The mark of an entry the spec leaves open (lock and unknown opcodes); no entry the spec gives is 0. -/
def costOpen : Nat := 0

/-- The default of CYCLE_COST, row = `opcode[7:4]`, column = `opcode[3:0]` (46_dispatch_loop R278); `costOpen` where the table has `?`. -/
def costTable : List (List Nat) :=
  [ [7, 6, costOpen, costOpen, 3, 3, 5, costOpen, 3, 2, 2, costOpen, costOpen, 4, 6, costOpen],
    [2, 5, costOpen, costOpen, 4, 4, 6, costOpen, 2, 4, costOpen, costOpen, costOpen, 4, 7, costOpen],
    [6, 6, costOpen, costOpen, 3, 3, 5, costOpen, 4, 2, 2, costOpen, 4, 4, 6, costOpen],
    [2, 5, costOpen, costOpen, 4, 4, 6, costOpen, 2, 4, costOpen, costOpen, costOpen, 4, 7, costOpen],
    [6, 6, costOpen, costOpen, 3, 3, 5, costOpen, 3, 2, 2, costOpen, 3, 4, 6, costOpen],
    [2, 5, costOpen, costOpen, 4, 4, 6, costOpen, 2, 4, costOpen, costOpen, costOpen, 4, 7, costOpen],
    [6, 6, costOpen, costOpen, 3, 3, 5, costOpen, 4, 2, 2, costOpen, 5, 4, 6, costOpen],
    [2, 5, costOpen, costOpen, 4, 4, 6, costOpen, 2, 4, costOpen, costOpen, costOpen, 4, 7, costOpen],
    [2, 6, 2, costOpen, 3, 3, 3, costOpen, 2, 2, 2, costOpen, 4, 4, 4, costOpen],
    [2, 6, costOpen, costOpen, 4, 4, 4, costOpen, 2, 5, 2, costOpen, costOpen, 5, costOpen, costOpen],
    [2, 6, 2, costOpen, 3, 3, 3, costOpen, 2, 2, 2, costOpen, 4, 4, 4, costOpen],
    [2, 5, costOpen, costOpen, 4, 4, 4, costOpen, 2, 4, 2, costOpen, 4, 4, 4, costOpen],
    [2, 6, 2, costOpen, 3, 3, 5, costOpen, 2, 2, 2, costOpen, 4, 4, 6, costOpen],
    [2, 5, costOpen, costOpen, 4, 4, 6, costOpen, 2, 4, costOpen, costOpen, costOpen, 4, 7, costOpen],
    [2, 6, 2, costOpen, 3, 3, 5, costOpen, 2, 2, 2, costOpen, 4, 4, 6, costOpen],
    [2, 5, costOpen, costOpen, 4, 4, 6, costOpen, 2, 4, costOpen, costOpen, costOpen, 4, 7, costOpen] ]

/-- The table's entry for an opcode byte, if it has one. -/
def tableCost (op : Byte) : Option Nat :=
  let entry := (((costTable[op.toNat / 16]?).getD [])[op.toNat % 16]?).getD costOpen
  if entry = costOpen then none else some entry

/-- A byte's entry of the default table, `Config.openCost` where the spec leaves it open (notes/assumptions/9.md). -/
def defaultCostOf (op : Byte) : Nat := (tableCost op).getD (Config.openCost op)

/-- The default of CYCLE_COST (46_dispatch_loop R278). -/
def defaultCost : Vector Nat 256 :=
  ⟨((List.range 256).map fun n => defaultCostOf (BitVec.ofNat 8 n)).toArray, by simp⟩

/-- Every parameter at its default (00_scope R9; 92_eei_decisions D4, D5, D7, D24, D25, D26). -/
def defaultParams : Params where
  mirror := true
  roEnforce := false
  mirrorLimit := 0x2000
  expRomLo := 0x4020
  expRomHi := 0x5FFF
  stackUnguarded := by decide
  cost := defaultCost
  sets := defaultSets

end Sys2Proof.Machine
end

