-- ==== Sys2Proof/Machine/State.lean ====
section
/-! DEFINITION. The state of the machine: register file, session state, mapper state, parameters (10_state R20 to R48), the ways a step can stop, and the state after reset. -/

namespace Sys2Proof.Machine

/-- The four 8-bit registers instructions move data through (10_state R22 to R24). -/
inductive Reg where
  | a | x | y | s
  deriving DecidableEq, Repr

/-- The eight named bits of the status word (10_state R27): carry, zero, interrupt-disable, decimal-mode, break-command,
debug, overflow, negative. -/
inductive Flag where
  | c | z | i | d | b | g | v | n
  deriving DecidableEq, Repr

/-- The latched error state (10_state R42). -/
inductive ErrState where
  | none
  | locked
  | unknown
  deriving DecidableEq, Repr

/-- A page-table entry (10_state R44 (c)): `flat i` is the 4096 bytes of FLAT from `i * 4096`, `bank k q` the 4096 bytes of
BANK[k] from `q * 4096`. -/
inductive PageEntry where
  | flat (i : Fin 16)
  | bank (k : Nat) (q : Fin 4)
  deriving DecidableEq, Repr

/-- One byte cell of the mapper's storage: `flat n` is FLAT[n], `bank n` is BANK[n / 16384][n mod 16384]. -/
inductive CellRef where
  | flat (n : Nat)
  | bank (n : Nat)
  deriving DecidableEq, Repr

/-- Storage: (index, byte) pairs in rising order of index, none equal to what an unlisted index reads as. -/
abbrev Memory := List Host.Cell

/-- The machine's state. `draws` is the model's own: it counts steps, so that each step takes fresh free values
(notes/assumptions/6.md). -/
structure State where
  /-- program counter (10_state R29) -/
  pc : Addr
  /-- accumulator (10_state R22) -/
  a : Byte
  /-- index register X (10_state R23) -/
  x : Byte
  /-- index register Y (10_state R23) -/
  y : Byte
  /-- stack pointer (10_state R24) -/
  s : Byte
  /-- temp scratch register (10_state R28) -/
  t : Byte
  /-- processor status (10_state R27) -/
  p : Byte
  /-- remaining-cycle counter (10_state R41) -/
  budget : Nat
  /-- latched error state (10_state R42) -/
  err : ErrState
  /-- stop-request flag (10_state R43) -/
  stop : Bool
  /-- FLAT, the flat backing store (10_state R44) -/
  flat : Memory
  /-- the bank arrays, BANK[k][j] at index k * 16384 + j (10_state R44) -/
  banks : Memory
  /-- how many bank arrays there are (10_state R44) -/
  bankCount : Nat
  /-- the page table (10_state R44) -/
  pt : Vector PageEntry 16
  /-- the parameters in force (00_scope R9) -/
  params : Params
  /-- the model's own step counter for free values -/
  draws : Nat
  deriving DecidableEq, Repr

/-- Why the machine stops. -/
inductive Fault where
  /-- `MemWrite` to a guarded address under RO_ENFORCE (20_memory R67, 60_exceptions R296), raised by the stores and the
  read-modify-write instructions, never by a push, whose cell is never guarded (44_single_byte R220). Safe: the spec defines no state after it, and the model gives none. -/
  | writeProtect (a : Addr)
  /-- A step is asked for while `err = locked` (46_dispatch_loop R270, R273; 93 U4): no step is possible. Raised by `step`.
  Safe: the machine is stuck until re-initialised. -/
  | haltedLocked
  /-- A step is asked for while `err = unknown` (46_dispatch_loop R270, R273; 93 U4). Raised by `step`. Safe, as above. -/
  | haltedUnknown
  deriving DecidableEq, Repr

/-- Why the model gives no meaning. -/
inductive Refusal where
  /-- An instruction that has no meaning yet; no arm of `exec` uses it now. Safe. -/
  | notModelled (mnemonic : String)
  /-- `switchBank` on an image of one or two PRG banks (20_memory R78, 93 U12). Raised by the host operation only. Safe. -/
  | switchBankSmallImage
  /-- `switchBank` with a bank index that is not less than the bank count (20_memory R78, 93 U12). Raised by the host
  operation only. Safe. -/
  | switchBankNoSuchBank
  deriving DecidableEq, Repr

/-- What a step, a write or an instruction answers. -/
abbrev Result := Host.Outcome State Fault Refusal

/-- PT[i] = Flat(i) for every i: the page table of an image of one or two PRG banks (10_state R44, R47). -/
def identityPageTable : Vector PageEntry 16 :=
  #v[.flat 0, .flat 1, .flat 2, .flat 3, .flat 4, .flat 5, .flat 6, .flat 7,
     .flat 8, .flat 9, .flat 10, .flat 11, .flat 12, .flat 13, .flat 14, .flat 15]

/-- The state after construction (10_state R47), with the registers the host supplies at zero (notes/assumptions/1.md), the
program counter at the word the reset vector holds in a memory with nothing listed (notes/assumptions/2.md), an image of one
or two PRG banks (notes/assumptions/5.md) and the default parameters (00_scope R9). -/
def State.reset : State where
  pc := 0x0000
  a := 0x00
  x := 0x00
  y := 0x00
  s := 0x00
  t := 0x00
  p := 0x00
  budget := 0
  err := .none
  stop := false
  flat := []
  banks := []
  bankCount := 0
  pt := identityPageTable
  params := defaultParams
  draws := 0

end Sys2Proof.Machine
end

