-- ==== Sys2Proof/Machine/Flags.lean ====
section
/-! DEFINITION. The status word's bits, and the ALU operations: each takes operands and the status word and answers a result byte with the new status word (41_alu_group1 R150 to R159, 42_shift_rmw_group2 R172 to R177, 43_group3 R191). -/

namespace Sys2Proof.Machine

/-- The bit of P each flag is (10_state R27). -/
def Flag.pos : Flag → Nat
  | .c => 0
  | .z => 1
  | .i => 2
  | .d => 3
  | .b => 4
  | .g => 5
  | .v => 6
  | .n => 7

/-- The value of a flag in a status word. -/
def flagOf (p : Byte) (f : Flag) : Bool := p.getLsbD f.pos

/-- A status word with one flag written and every other bit kept. -/
def withFlag (p : Byte) (f : Flag) (b : Bool) : Byte :=
  if b then p ||| (1#8 <<< f.pos) else p &&& ~~~(1#8 <<< f.pos)

/-- `SetNZ(v)` (41_alu_group1 R150). -/
def setNZ (p v : Byte) : Byte := withFlag (withFlag p .n v.msb) .z (v == 0)

/-- `SetNZ(v)` after carry has been written: the flags of a shift (42_shift_rmw_group2 R172). -/
def setCNZ (p : Byte) (c : Bool) (v : Byte) : Byte := setNZ (withFlag p .c c) v

/-- A byte and the status word after it. -/
abbrev AluOut := Byte × Byte

/-- ORA (41_alu_group1 R153). -/
def aluOr (r v p : Byte) : AluOut := (r ||| v, setNZ p (r ||| v))

/-- AND (R154). -/
def aluAnd (r v p : Byte) : AluOut := (r &&& v, setNZ p (r &&& v))

/-- EOR (R155). -/
def aluXor (r v p : Byte) : AluOut := (r ^^^ v, setNZ p (r ^^^ v))

/-- EQL, the load operation (R156), and the copy of a transfer (44_single_byte R209). -/
def aluLoad (v p : Byte) : AluOut := (v, setNZ p v)

/-- `Add(v)` (41_alu_group1 R157): exact sum, then the wrapped byte; C from the exact sum, V from the three sign bits. -/
def aluAdd (r v p : Byte) : AluOut :=
  let t := r.toNat + v.toNat + (flagOf p .c).toNat
  let sum : Byte := BitVec.ofNat 8 t
  let carry := decide (255 < t)
  let overflow := (r.msb == v.msb) && (sum.msb != r.msb)
  (sum, setNZ (withFlag (withFlag p .c carry) .v overflow) sum)

/-- SBC: `Add(v xor 0xFF)` (R158). -/
def aluSub (r v p : Byte) : AluOut := aluAdd r (v ^^^ 0xFF) p

/-- `Compare(R, v)` (R159): Z and N from the wrapped difference, C from the SIGNED comparison; only the status word. -/
def aluCompare (r v p : Byte) : Byte :=
  let d := r - v
  setCNZ p (decide (v.toInt ≤ r.toInt)) d

/-- ASL (42_shift_rmw_group2 R172). -/
def aluAsl (v p : Byte) : AluOut :=
  let r := v <<< 1
  (r, setCNZ p v.msb r)

/-- ROL (R173): the old carry enters bit 0. -/
def aluRol (v p : Byte) : AluOut :=
  let r := (v <<< 1) ||| (BitVec.ofBool (flagOf p .c)).setWidth 8
  (r, setCNZ p v.msb r)

/-- LSR (R174). -/
def aluLsr (v p : Byte) : AluOut :=
  let r := v >>> 1
  (r, setCNZ p (v.getLsbD 0) r)

/-- ROR (R175): the old carry enters bit 7. -/
def aluRor (v p : Byte) : AluOut :=
  let r := (v >>> 1) ||| ((BitVec.ofBool (flagOf p .c)).setWidth 8 <<< 7)
  (r, setCNZ p (v.getLsbD 0) r)

/-- INC, INX, INY (R176, 44_single_byte R202, R203). -/
def aluInc (v p : Byte) : AluOut := (v + 1, setNZ p (v + 1))

/-- DEC, DEX, DEY (R177, 44_single_byte R204, R205). -/
def aluDec (v p : Byte) : AluOut := (v - 1, setNZ p (v - 1))

/-- BIT (43_group3 R191): Z from `A & v`, N and V copied from the operand; only the status word. -/
def aluBit (r v p : Byte) : Byte :=
  withFlag (withFlag (withFlag p .z ((r &&& v) == 0)) .n (v.getLsbD 7)) .v (v.getLsbD 6)

end Sys2Proof.Machine
end

