-- ==== Sys2Proof/Machine/Memory.lean ====
section
/-! DEFINITION. Storage as a list of (index, byte) pairs in one canonical form: reading, writing, writing a block. -/

namespace Sys2Proof.Machine

/-- What an index that is not listed reads as: 0x00. The spec zeroes the I/O windows (20_memory R63) and leaves every other
byte the image does not fix unspecified (R68); there the model's choice is 0x00 (notes/assumptions/3.md). -/
def unlisted : Byte := 0x00

/-- The canonical form: indexes strictly rising, no entry equal to what an unlisted index reads as. -/
abbrev Memory.wf (m : Memory) : Prop :=
  m.Pairwise (fun c d => c.1 < d.1) ∧ ∀ c ∈ m, c.2 ≠ unlisted

/-- Every listed index is below `n`. -/
abbrev Memory.below (m : Memory) (n : Nat) : Prop := ∀ c ∈ m, c.1 < n

/-- The byte at an index. -/
def Memory.read : Memory → Nat → Byte
  | [], _ => unlisted
  | c :: rest, n => if c.1 = n then c.2 else Memory.read rest n

/-- Put an entry before the first one of a greater index. -/
def Memory.insert : Memory → Nat → Byte → Memory
  | [], n, v => [(n, v)]
  | c :: rest, n, v => if n < c.1 then (n, v) :: c :: rest else c :: Memory.insert rest n v

/-- The memory with byte `v` at index `n`: the old entry goes, and a new one is listed unless an unlisted index reads as `v`. -/
def Memory.write (m : Memory) (n : Nat) (v : Byte) : Memory :=
  let others := m.filter (fun c => c.1 != n)
  if v = unlisted then others else Memory.insert others n v

/-- The memory with a run of bytes written from index `base` up. -/
def Memory.writeBlock (m : Memory) (base : Nat) : List Byte → Memory
  | [] => m
  | b :: bs => Memory.writeBlock (Memory.write m base b) (base + 1) bs

end Sys2Proof.Machine
end

