-- ==== Sys2Proof/Machine/Ops.lean ====
section
/-! DEFINITION. The named operations over registers and memory: register access, the mapper's read and write (20_memory R60 to R83), the stack (10_state R25, R26), entering the break trap and returning from it (60_exceptions R298, R299), latching an error (R292, R293). -/

namespace Sys2Proof.Machine

/-- Go on with the state a result gives; a fault or a refusal ends there. -/
def andThen (r : Result) (f : State → Result) : Result :=
  match r with
  | .next s => f s
  | .fault e => .fault e
  | .refused e => .refused e

/-! Registers. -/

/-- A register's byte. -/
def State.reg (s : State) : Reg → Byte
  | .a => s.a
  | .x => s.x
  | .y => s.y
  | .s => s.s

/-- The state with one register written. -/
def State.setReg (s : State) (r : Reg) (v : Byte) : State :=
  match r with
  | .a => { s with a := v }
  | .x => { s with x := v }
  | .y => { s with y := v }
  | .s => { s with s := v }

/-- The state with the program counter written. -/
def State.setPc (s : State) (pc : Addr) : State := { s with pc := pc }

/-- The state with the status word written whole. -/
def State.setP (s : State) (p : Byte) : State := { s with p := p }

/-- The state with the latched error written. -/
def State.setErr (s : State) (e : ErrState) : State := { s with err := e }

/-- The value of a flag. -/
def State.flag (s : State) (f : Flag) : Bool := flagOf s.p f

/-- The state with one flag written. -/
def State.setFlag (s : State) (f : Flag) (b : Bool) : State := s.setP (withFlag s.p f b)

/-- The state with an ALU result in a register and its status word in P. -/
def State.setAlu (s : State) (r : Reg) (out : AluOut) : State := (s.setReg r out.1).setP out.2

/-! The mapper. -/

/-- The cell at an offset of a page (20_memory R61). -/
def PageEntry.cell (e : PageEntry) (off : Nat) : CellRef :=
  match e with
  | .flat i => .flat (i.val * 4096 + off)
  | .bank k q => .bank (k * 16384 + q.val * 4096 + off)

/-- `Cell(a)`: the cell an address designates (20_memory R61). -/
def State.cellOf (s : State) (a : Addr) : CellRef := (s.pt.get (pageSlot a)).cell (pageOffset a)

/-- The byte in a cell. -/
def State.readCell (s : State) : CellRef → Byte
  | .flat n => Memory.read s.flat n
  | .bank n => Memory.read s.banks n

/-- The state with a cell written. -/
def State.writeCell (s : State) (c : CellRef) (v : Byte) : State :=
  match c with
  | .flat n => { s with flat := Memory.write s.flat n v }
  | .bank n => { s with banks := Memory.write s.banks n v }

/-- `MemRead(a)` (20_memory R66). -/
def memRead (s : State) (a : Addr) : Byte := s.readCell (s.cellOf a)

/-- `MemRead16(a)` (20_memory R83). -/
def memRead16 (s : State) (a : Addr) : Addr := word (memRead s (a + 1)) (memRead s a)

/-- The cells a store to an address writes: its own, and under MIRROR below the limit the four images in FLAT (20_memory
R67, R69). -/
def State.storedCells (s : State) (a : Addr) : List CellRef :=
  s.cellOf a :: (if s.params.mirror ∧ a < s.params.mirrorLimit then (mirrorImages a).map .flat else [])

/-- The state with those cells written: the effect of a store that is not turned away. -/
def memStore (s : State) (a : Addr) (v : Byte) : State :=
  (s.storedCells a).foldl (fun t c => t.writeCell c v) s

/-- RO_ENFORCE turns a store to this address away (20_memory R67). -/
def State.writeProtected (s : State) (a : Addr) : Bool := s.params.roEnforce && s.params.guarded a

/-- `MemWrite(a, v)` (20_memory R67). -/
def memWrite (s : State) (a : Addr) (v : Byte) : Result :=
  if s.writeProtected a then .fault (.writeProtect a) else .next (memStore s a v)

/-! The stack. -/

/-- The address of the stack cell a stack pointer designates (10_state R24). -/
def stackAddr (sp : Byte) : Addr := stackBase + zext sp

/-- `Push(v)` (10_state R25): `MemWrite` to the stack cell, then decrement. The write is never turned away: the stack page is
never guarded (`Params.stackUnguarded`; 44_single_byte R220). -/
def push (s : State) (v : Byte) : Result :=
  andThen (memWrite s (stackAddr s.s) v) fun t => .next (t.setReg .s (t.s - 1))

/-- `Pop()` (10_state R26): increment, then read. -/
def pop (s : State) : Byte × State :=
  let t := s.setReg .s (s.s + 1)
  (memRead t (stackAddr t.s), t)

/-! The break trap (60_exceptions R298, R299). -/

/-- Entry, with PC at the return address: push its low byte, its high byte and the status as it stands, set B, load PC from
the break vector (45_control_flow R256). -/
def enterBreak (s : State) : Result :=
  andThen (push s (loByte s.pc)) fun s1 =>
  andThen (push s1 (hiByte s.pc)) fun s2 =>
  andThen (push s2 s.p) fun s3 =>
  let s4 := s3.setFlag .b true
  .next (s4.setPc (memRead16 s4 breakVector))

/-- Return: pop the status, the high byte and the low byte of the address; nothing is added to it (45_control_flow R257). -/
def returnFromBreak (s : State) : Result :=
  let (p, s1) := pop s
  let (hi, s2) := pop (s1.setP p)
  let (lo, s3) := pop s2
  .next (s3.setPc (word hi lo))

/-! Latched errors. -/

/-- `latch locked` (60_exceptions R292). -/
def latchLocked (s : State) : State := s.setErr .locked

/-- `latch unknown` by the opcode byte `op` (60_exceptions R293, 45_control_flow R262): G is a free value, and PC past the
opcode, or for a byte whose low bits are not 11 a free choice of that, one more or two more. -/
def latchUnknown (s : State) (op : Byte) : State :=
  let s1 := (s.setErr .unknown).setFlag .g (Config.freeDebug s.draws)
  if op.toNat % 4 = 3 then s1 else s1.setPc (s.pc + BitVec.ofNat 16 (Config.freeSkip s.draws).val)

end Sys2Proof.Machine
end

