-- ==== Sys2Proof/Machine/Operands.lean ====
section
/-! DEFINITION. The addressing-mode resolvers (40_addressing_modes) and the shared shapes of instructions. Each is applied to a state whose PC addresses the byte after the opcode. -/

namespace Sys2Proof.Machine

/-- The state with PC past `n` operand bytes (40_addressing_modes R131, 10_state R30). -/
def advance (n : Nat) (s : State) : State := s.setPc (s.pc + BitVec.ofNat 16 n)

/-- The word a zero-page pointer designates: the step to its high byte wraps in page zero (40_addressing_modes R139, R140). -/
def zeroPagePointer (s : State) (p : Byte) : Addr :=
  word (memRead s (zext (p + 1))) (memRead s (zext p))

/-- `EA_<mode>()`, the effective address (40_addressing_modes R132 to R140). -/
def ea (m : Mode) (s : State) : Addr :=
  match m with
  | .imm _ => s.pc
  | .zp d => zext d
  | .zpx d => zext (d + s.x)
  | .zpy d => zext (d + s.y)
  | .abs a => a
  | .abx a => a + zext s.x
  | .aby a => a + zext s.y
  | .izx d => zeroPagePointer s (d + s.x)
  | .izy d => zeroPagePointer s d + zext s.y

/-- The load path, `MemRead(EA_<mode>())`: for immediate the operand byte itself (40_addressing_modes R131, R132). -/
def operand (m : Mode) (s : State) : Byte :=
  match m with
  | .imm d => d
  | .zp _ | .zpx _ | .zpy _ | .abs _ | .abx _ | .aby _ | .izx _ | .izy _ => memRead s (ea m s)

/-- PC past the operand bytes of a mode. -/
def skipOperand (m : Mode) (s : State) : State := advance m.operandBytes s

/-! Shared shapes. -/

/-- Read the operand, combine it with a register, write the result there (41_alu_group1 R152). -/
def aluInto (r : Reg) (f : Byte → Byte → Byte → AluOut) (m : Mode) (s : State) : Result :=
  .next ((skipOperand m s).setAlu r (f (s.reg r) (operand m s) s.p))

/-- Read the operand and write only the status word. -/
def aluTest (r : Reg) (f : Byte → Byte → Byte → Byte) (m : Mode) (s : State) : Result :=
  .next ((skipOperand m s).setP (f (s.reg r) (operand m s) s.p))

/-- Load a register (41_alu_group1 R156, 42_shift_rmw_group2 R178, 43_group3 R192). -/
def loadReg (r : Reg) (m : Mode) (s : State) : Result :=
  .next ((skipOperand m s).setAlu r (aluLoad (operand m s) s.p))

/-- Store a register (41_alu_group1 R161, 42_shift_rmw_group2 R179, 43_group3 R193). -/
def storeReg (r : Reg) (m : Mode) (s : State) : Result :=
  memWrite (skipOperand m s) (ea m s) (s.reg r)

/-- The read-modify-write template: one read, the flags, one write (42_shift_rmw_group2 R171). -/
def modifyMem (f : Byte → Byte → AluOut) (m : Mode) (s : State) : Result :=
  let out := f (memRead s (ea m s)) s.p
  memWrite ((skipOperand m s).setP out.2) (ea m s) out.1

/-- The same on a register. -/
def modifyReg (r : Reg) (f : Byte → Byte → AluOut) (s : State) : Result :=
  .next (s.setAlu r (f (s.reg r) s.p))

/-- A shift or rotate of either operand form (42_shift_rmw_group2 R171). -/
def modifyTarget (f : Byte → Byte → AluOut) (t : Target) (s : State) : Result :=
  match t with
  | .acc => modifyReg .a f s
  | .mem m => modifyMem f m s

/-- Copy a register and set N and Z from the destination (44_single_byte R209). -/
def transfer (src dst : Reg) (s : State) : Result :=
  .next (s.setAlu dst (aluLoad (s.reg src) s.p))

/-- Write one flag (44_single_byte R229). -/
def writeFlag (f : Flag) (b : Bool) (s : State) : Result := .next (s.setFlag f b)

/-- `Branch(cond)` (45_control_flow R241, 40_addressing_modes R142). -/
def branch (cond : Bool) (d : Byte) (s : State) : Result :=
  let t := advance 1 s
  .next (if cond then t.setPc (t.pc + sext d) else t)

end Sys2Proof.Machine
end

