-- ==== Sys2Proof/Machine/ControlFlow.lean ====
section
/-! DEFINITION. Branches, jumps, call, return, break and the halting opcodes (45_control_flow). -/

namespace Sys2Proof.Machine

/-- BPL (45_control_flow R242). -/
def execBpl (d : Byte) (s : State) : Result := branch (!s.flag .n) d s

/-- BMI (R243). -/
def execBmi (d : Byte) (s : State) : Result := branch (s.flag .n) d s

/-- BVC (R244). -/
def execBvc (d : Byte) (s : State) : Result := branch (!s.flag .v) d s

/-- BVS (R245). -/
def execBvs (d : Byte) (s : State) : Result := branch (s.flag .v) d s

/-- BCC (R246). -/
def execBcc (d : Byte) (s : State) : Result := branch (!s.flag .c) d s

/-- BCS (R247). -/
def execBcs (d : Byte) (s : State) : Result := branch (s.flag .c) d s

/-- BNE (R248). -/
def execBne (d : Byte) (s : State) : Result := branch (!s.flag .z) d s

/-- BEQ (R249). -/
def execBeq (d : Byte) (s : State) : Result := branch (s.flag .z) d s

/-- JMP absolute (R250) and indirect (R251, 40_addressing_modes R143: no page-wrap bug). -/
def execJmp (t : JmpTarget) (s : State) : Result :=
  match t with
  | .abs a => .next (s.setPc a)
  | .ind p => .next (s.setPc (memRead16 s p))

/-- JSR (R252): the address of the instruction's third byte, low byte pushed first. -/
def execJsr (a : Addr) (s : State) : Result :=
  let ret := s.pc + 1
  andThen (push s (loByte ret)) fun s1 =>
  andThen (push s1 (hiByte ret)) fun s2 =>
  .next (s2.setPc a)

/-- RTS (R253): pop high, pop low, add one. -/
def execRts (s : State) : Result :=
  let (hi, s1) := pop s
  let (lo, s2) := pop s1
  .next (s2.setPc (word hi lo + 1))

/-- BRK (R256): skip the padding byte, then enter the break trap. -/
def execBrk (s : State) : Result := enterBreak (advance 1 s)

/-- RTI (R257). -/
def execRti (s : State) : Result := returnFromBreak s

/-- KIL (R260). -/
def execKil (_op : Byte) (s : State) : Result := .next (latchLocked s)

/-- UNK (R262). -/
def execUnk (op : Byte) (s : State) : Result := .next (latchUnknown s op)

end Sys2Proof.Machine
end

