-- ==== Sys2Proof/Machine/Group1.lean ====
section
/-! DEFINITION. Group 1 (41_alu_group1): ORA, AND, EOR, ADC, STA, LDA, CMP, SBC. -/

namespace Sys2Proof.Machine

/-- ORA (41_alu_group1 R153). -/
def execOra (m : Mode) (s : State) : Result := aluInto .a aluOr m s

/-- AND (R154). -/
def execAnd (m : Mode) (s : State) : Result := aluInto .a aluAnd m s

/-- EOR (R155). -/
def execEor (m : Mode) (s : State) : Result := aluInto .a aluXor m s

/-- ADC (R157). -/
def execAdc (m : Mode) (s : State) : Result := aluInto .a aluAdd m s

/-- STA (R161). -/
def execSta (m : Mode) (s : State) : Result := storeReg .a m s

/-- LDA (R156). -/
def execLda (m : Mode) (s : State) : Result := loadReg .a m s

/-- CMP (R160). -/
def execCmp (m : Mode) (s : State) : Result := aluTest .a aluCompare m s

/-- SBC (R158). -/
def execSbc (m : Mode) (s : State) : Result := aluInto .a aluSub m s

end Sys2Proof.Machine
end

