-- ==== Sys2Proof/Machine/Group2.lean ====
section
/-! DEFINITION. Group 2 (42_shift_rmw_group2): ASL, ROL, LSR, ROR, STX, LDX, DEC, INC. -/

namespace Sys2Proof.Machine

/-- ASL (42_shift_rmw_group2 R172). -/
def execAsl (t : Target) (s : State) : Result := modifyTarget aluAsl t s

/-- ROL (R173). -/
def execRol (t : Target) (s : State) : Result := modifyTarget aluRol t s

/-- LSR (R174). -/
def execLsr (t : Target) (s : State) : Result := modifyTarget aluLsr t s

/-- ROR (R175). -/
def execRor (t : Target) (s : State) : Result := modifyTarget aluRor t s

/-- STX (R179). -/
def execStx (m : Mode) (s : State) : Result := storeReg .x m s

/-- LDX (R178). -/
def execLdx (m : Mode) (s : State) : Result := loadReg .x m s

/-- DEC (R177). -/
def execDec (m : Mode) (s : State) : Result := modifyMem aluDec m s

/-- INC (R176). -/
def execInc (m : Mode) (s : State) : Result := modifyMem aluInc m s

end Sys2Proof.Machine
end

