-- ==== Sys2Proof/Machine/Group3.lean ====
section
/-! DEFINITION. Group 3 (43_group3): BIT, STY, LDY, CPY, CPX. -/

namespace Sys2Proof.Machine

/-- BIT (43_group3 R191). -/
def execBit (m : Mode) (s : State) : Result := aluTest .a aluBit m s

/-- STY (R193). -/
def execSty (m : Mode) (s : State) : Result := storeReg .y m s

/-- LDY (R192). -/
def execLdy (m : Mode) (s : State) : Result := loadReg .y m s

/-- CPY (R194). -/
def execCpy (m : Mode) (s : State) : Result := aluTest .y aluCompare m s

/-- CPX (R195). -/
def execCpx (m : Mode) (s : State) : Result := aluTest .x aluCompare m s

end Sys2Proof.Machine
end

