-- ==== Sys2Proof/Machine/SingleByte.lean ====
section
/-! DEFINITION. The single-byte instructions and the double no-op (44_single_byte). -/

namespace Sys2Proof.Machine

/-- NOP (44_single_byte R200): no state change beyond the opcode fetch. -/
def execNop (s : State) : Result := .next s

/-- DOP (R201): the operand byte is skipped and never used. -/
def execDop (_op : Byte) (_d : Byte) (s : State) : Result := .next (advance 1 s)

/-- INX (R202). -/
def execInx (s : State) : Result := modifyReg .x aluInc s

/-- INY (R203). -/
def execIny (s : State) : Result := modifyReg .y aluInc s

/-- DEX (R204). -/
def execDex (s : State) : Result := modifyReg .x aluDec s

/-- DEY (R205). -/
def execDey (s : State) : Result := modifyReg .y aluDec s

/-- TAX (R210). -/
def execTax (s : State) : Result := transfer .a .x s

/-- TAY (R211). -/
def execTay (s : State) : Result := transfer .a .y s

/-- TXA (R212). -/
def execTxa (s : State) : Result := transfer .x .a s

/-- TYA (R213). -/
def execTya (s : State) : Result := transfer .y .a s

/-- TSX (R214). -/
def execTsx (s : State) : Result := transfer .s .x s

/-- TXS (R215): it sets N and Z too. -/
def execTxs (s : State) : Result := transfer .x .s s

/-- PHA (R220). -/
def execPha (s : State) : Result := push s s.a

/-- PHP (R221): P exactly as it stands. -/
def execPhp (s : State) : Result := push s s.p

/-- PLA (R222). -/
def execPla (s : State) : Result :=
  let (v, t) := pop s
  .next (t.setAlu .a (aluLoad v t.p))

/-- PLP (R223): all eight bits. -/
def execPlp (s : State) : Result :=
  let (v, t) := pop s
  .next (t.setP v)

/-- CLC (R230). -/
def execClc (s : State) : Result := writeFlag .c false s

/-- SEC (R231). -/
def execSec (s : State) : Result := writeFlag .c true s

/-- CLI (R232). -/
def execCli (s : State) : Result := writeFlag .i false s

/-- SEI (R233). -/
def execSei (s : State) : Result := writeFlag .i true s

/-- CLV (R234). -/
def execClv (s : State) : Result := writeFlag .v false s

/-- CLD (R235). -/
def execCld (s : State) : Result := writeFlag .d false s

/-- SED (R236). -/
def execSed (s : State) : Result := writeFlag .d true s

end Sys2Proof.Machine
end

