-- ==== Sys2Proof/Machine/Dispatch.lean ====
section
/-! DEFINITION. `Execute(op)` (46_dispatch_loop R272): one arm per constructor, each one call of its meaning. -/

namespace Sys2Proof.Machine

def exec (i : Instr) (s : State) : Host.Outcome State Fault Refusal :=
  match i with
  | .ora m => Sys2Proof.Machine.execOra m s
  | .and m => Sys2Proof.Machine.execAnd m s
  | .eor m => Sys2Proof.Machine.execEor m s
  | .adc m => Sys2Proof.Machine.execAdc m s
  | .sta m => Sys2Proof.Machine.execSta m s
  | .lda m => Sys2Proof.Machine.execLda m s
  | .cmp m => Sys2Proof.Machine.execCmp m s
  | .sbc m => Sys2Proof.Machine.execSbc m s
  | .asl t => Sys2Proof.Machine.execAsl t s
  | .rol t => Sys2Proof.Machine.execRol t s
  | .lsr t => Sys2Proof.Machine.execLsr t s
  | .ror t => Sys2Proof.Machine.execRor t s
  | .stx m => Sys2Proof.Machine.execStx m s
  | .ldx m => Sys2Proof.Machine.execLdx m s
  | .dec m => Sys2Proof.Machine.execDec m s
  | .inc m => Sys2Proof.Machine.execInc m s
  | .bit m => Sys2Proof.Machine.execBit m s
  | .sty m => Sys2Proof.Machine.execSty m s
  | .ldy m => Sys2Proof.Machine.execLdy m s
  | .cpy m => Sys2Proof.Machine.execCpy m s
  | .cpx m => Sys2Proof.Machine.execCpx m s
  | .nop => Sys2Proof.Machine.execNop s
  | .dop op d => Sys2Proof.Machine.execDop op d s
  | .inx => Sys2Proof.Machine.execInx s
  | .iny => Sys2Proof.Machine.execIny s
  | .dex => Sys2Proof.Machine.execDex s
  | .dey => Sys2Proof.Machine.execDey s
  | .tax => Sys2Proof.Machine.execTax s
  | .tay => Sys2Proof.Machine.execTay s
  | .txa => Sys2Proof.Machine.execTxa s
  | .tya => Sys2Proof.Machine.execTya s
  | .tsx => Sys2Proof.Machine.execTsx s
  | .txs => Sys2Proof.Machine.execTxs s
  | .pha => Sys2Proof.Machine.execPha s
  | .php => Sys2Proof.Machine.execPhp s
  | .pla => Sys2Proof.Machine.execPla s
  | .plp => Sys2Proof.Machine.execPlp s
  | .clc => Sys2Proof.Machine.execClc s
  | .sec => Sys2Proof.Machine.execSec s
  | .cli => Sys2Proof.Machine.execCli s
  | .sei => Sys2Proof.Machine.execSei s
  | .clv => Sys2Proof.Machine.execClv s
  | .cld => Sys2Proof.Machine.execCld s
  | .sed => Sys2Proof.Machine.execSed s
  | .bpl d => Sys2Proof.Machine.execBpl d s
  | .bmi d => Sys2Proof.Machine.execBmi d s
  | .bvc d => Sys2Proof.Machine.execBvc d s
  | .bvs d => Sys2Proof.Machine.execBvs d s
  | .bcc d => Sys2Proof.Machine.execBcc d s
  | .bcs d => Sys2Proof.Machine.execBcs d s
  | .bne d => Sys2Proof.Machine.execBne d s
  | .beq d => Sys2Proof.Machine.execBeq d s
  | .jmp t => Sys2Proof.Machine.execJmp t s
  | .jsr a => Sys2Proof.Machine.execJsr a s
  | .rts => Sys2Proof.Machine.execRts s
  | .brk => Sys2Proof.Machine.execBrk s
  | .rti => Sys2Proof.Machine.execRti s
  | .kil op => Sys2Proof.Machine.execKil op s
  | .unk op => Sys2Proof.Machine.execUnk op s

end Sys2Proof.Machine
end

