-- ==== Sys2Proof/Machine/Cost.lean ====
section
/-! DEFINITION. The cost of an opcode and the debit (46_dispatch_loop R271). -/

namespace Sys2Proof.Machine

/-- `CYCLE_COST[op]` under the machine's table. -/
def State.cycleCost (s : State) (op : Byte) : Nat := s.params.costOf op

/-- `Debit(c)`: saturating at 0 (46_dispatch_loop R271). -/
def debit (c : Nat) (s : State) : State := { s with budget := s.budget - min s.budget c }

end Sys2Proof.Machine
end

