-- ==== Sys2Proof/Machine/Fetch.lean ====
section
/-! DEFINITION. What a step does around the instruction: reading its bytes, the opcode fetch and the debit, the draw of the scratch register; and placing an instruction's bytes where the next step reads them. -/

namespace Sys2Proof.Machine

/-- The opcode byte at PC. -/
def opcodeAt (s : State) : Byte := memRead s s.pc

/-- The three bytes from PC up, as many as the longest instruction has (30_encoding R100, R101). Reads have no side effect
(20_memory R66), so those past the instruction's end cannot be observed. -/
def fetchBytes (s : State) : List Byte := [opcodeAt s, memRead s (s.pc + 1), memRead s (s.pc + 2)]

/-- The instruction at PC. -/
def fetchInstr (s : State) : Instr := decodeOp s.params.sets (opcodeAt s) (memRead s (s.pc + 1)) (memRead s (s.pc + 2))

/-- The opcode fetch and the debit (46_dispatch_loop R270). -/
def beginStep (s : State) : State := debit (s.cycleCost (opcodeAt s)) (advance 1 s)

/-- The end of a step: T is a free value (10_state R28). -/
def endStep (s : State) : State := { s with t := Config.freeScratch s.draws, draws := s.draws + 1 }

/-- `Step()` when no error is latched (46_dispatch_loop R270), with the instruction's meaning as an argument. -/
def stepWith (run : Instr → State → Result) (s : State) : Result :=
  andThen (run (fetchInstr s) (beginStep s)) fun t => .next (endStep t)

/-- The state with bytes placed in the cells of consecutive addresses, under no write policy. -/
def placeBytes (s : State) (a : Addr) : List Byte → State
  | [] => s
  | b :: bs => placeBytes (s.writeCell (s.cellOf a) b) (a + 1) bs

/-- The state with bytes placed from PC up and no error latched, so that the next step runs them. -/
def placeInstr (s : State) (bytes : List Byte) : State := (placeBytes s s.pc bytes).setErr .none

end Sys2Proof.Machine
end

