-- ==== Sys2Proof/Machine/Step.lean ====
section
/-! DEFINITION. One step of the dispatcher (46_dispatch_loop R270), and the state whose next step runs a given opcode-table word. -/

namespace Sys2Proof.Machine

/-- `Step()` (46_dispatch_loop R270). It is defined only when no error is latched; otherwise the machine is stuck (R273,
93 U4; notes/assumptions/10.md). It does not ask for a budget or look at the stop flag: those belong to `run`. -/
def step (s : State) : Host.Outcome State Fault Refusal :=
  match s.err with
  | .none => stepWith exec s
  | .locked => .fault .haltedLocked
  | .unknown => .fault .haltedUnknown

/-- The state with an opcode-table word's instruction where the next step fetches (notes/assumptions/4.md). -/
def State.withFetchWord (s : State) (nbits w : Nat) : State := placeInstr s (tableWordBytes nbits w)

end Sys2Proof.Machine
end

