-- ==== Sys2Proof/Machine/Session.lean ====
section
/-! DEFINITION. The host's operations on a session (46_dispatch_loop R274 to R282, 60_exceptions R294, 10_state R48, 20_memory R78). -/

namespace Sys2Proof.Machine

/-! The register file as the host sees it (10_state R20, R48). -/

/-- The seven cells of the register file. -/
structure RegisterFile where
  pc : Addr
  a : Byte
  x : Byte
  y : Byte
  s : Byte
  t : Byte
  p : Byte
  deriving DecidableEq, Repr

/-- Read back a copy of the register file (10_state R48). -/
def readRegisters (s : State) : RegisterFile :=
  { pc := s.pc, a := s.a, x := s.x, y := s.y, s := s.s, t := s.t, p := s.p }

/-- Overwrite the register file; session and mapper are untouched (10_state R48). -/
def overwriteRegisters (s : State) (r : RegisterFile) : State :=
  { s with pc := r.pc, a := r.a, x := r.x, y := r.y, s := r.s, t := r.t, p := r.p }

/-- `RequestStop()` (46_dispatch_loop R276). -/
def requestStop (s : State) : State := { s with stop := true }

/-- `QueryError()` (46_dispatch_loop R277). -/
def queryError (s : State) : ErrState := s.err

/-- Re-initialise the session: no error, no budget, no stop request, a new register file; mapper and memory untouched
(60_exceptions R294). -/
def reinitialize (s : State) (r : RegisterFile) : State :=
  { overwriteRegisters s r with err := .none, budget := 0, stop := false }

/-- The window of a bank switch (20_memory R78). -/
inductive Window where
  | low
  | high
  deriving DecidableEq, Repr

/-- `switchBank(k, window)` (20_memory R78): four page-table entries; refused by name where the spec gives no meaning. -/
def switchBank (s : State) (k : Nat) (w : Window) : Result :=
  if s.bankCount ≤ 2 then .refused .switchBankSmallImage
  else if s.bankCount ≤ k then .refused .switchBankNoSuchBank
  else match w with
    | .low => .next { s with pt := (((s.pt.set 8 (.bank k 0)).set 9 (.bank k 1)).set 10 (.bank k 2)).set 11 (.bank k 3) }
    | .high => .next { s with pt := (((s.pt.set 12 (.bank k 0)).set 13 (.bank k 1)).set 14 (.bank k 2)).set 15 (.bank k 3) }

/-- The read-only accessor to FLAT (20_memory R79). What it answers for an index past the 65536 bytes, on which the spec is
silent, is the model's choice: the unlisted byte (notes/assumptions/32.md). -/
def accessFlat (s : State) (n : Nat) : Byte := s.readCell (.flat n)

/-- The read-only accessor to BANK[k] (20_memory R79). What it answers for an index past a bank's 16384 bytes or a bank that is
not there, on which the spec is silent, is the model's choice: the byte at that place of the one list the banks are kept in,
which is the next bank's, or past the last bank the unlisted byte (notes/assumptions/32.md). -/
def accessBank (s : State) (k j : Nat) : Byte := s.readCell (.bank (k * 16384 + j))

/-! The run loop. -/

/-- How a Run ends (46_dispatch_loop R281). `unfinished` is the model's own: the Run has not ended within the bound it was
given (notes/assumptions/19.md). -/
inductive RunEnd where
  | exhausted
  | stopped
  | locked
  | unknown
  | unfinished
  deriving DecidableEq, Repr

/-- What a Run answers: how it ended, the cycles left it returns, and the state. -/
structure RunResult where
  ended : RunEnd
  cyclesLeft : Nat
  state : State
  deriving DecidableEq, Repr

/-- How a Run ends in which the budget is spent or an error is latched (46_dispatch_loop R273, R281). -/
def endByError : ErrState → RunEnd
  | .none => .exhausted
  | .locked => .locked
  | .unknown => .unknown

/-- A stop request arriving before a check of the loop, or none (46_dispatch_loop R276). -/
def arrive (request : Bool) (s : State) : State := if request then requestStop s else s

/-- The loop of `Run` (46_dispatch_loop R274). `arrivals` says before which checks a stop request arrives, none after its
end; `bound` limits the iterations. -/
def runLoop : Nat → List Bool → State → Host.Outcome RunResult Fault Refusal
  | 0, _, s => .next ⟨.unfinished, s.budget, s⟩
  | bound + 1, arrivals, s₀ =>
    let s := arrive (arrivals.headD false) s₀
    if s.budget = 0 then .next ⟨endByError s.err, 0, s⟩
    else if s.err ≠ .none then .next ⟨endByError s.err, s.budget, s⟩
    else if s.stop then .next ⟨.stopped, s.budget, { s with stop := false }⟩
    else match step s with
      | .next t => runLoop bound arrivals.tail t
      | .fault e => .fault e
      | .refused e => .refused e

/-- `Run(N)` (46_dispatch_loop R274, R277): a no-op once an error is latched. `bound` is how many checks of the loop are
followed: where every step that latches no error costs at least 1, as with the default table, `n + 1` are enough; a table with
an entry of 0 gives a Run that need never end (R279). -/
def run (bound n : Nat) (arrivals : List Bool) (s : State) : Host.Outcome RunResult Fault Refusal :=
  if s.err ≠ .none then .next ⟨endByError s.err, s.budget, s⟩
  else runLoop bound arrivals { s with budget := n }

end Sys2Proof.Machine
end

