-- ==== Sys2Proof/Machine/Load.lean ====
section
/-! DEFINITION. How the core comes to life (70_reset_and_hazards R320 to R324, 20_memory R62 to R65): the header checks, the mapper built from a cartridge image, the session constructed over it. -/

namespace Sys2Proof.Machine

/-- The open parameters of load (00_scope R9): INIT_MEM, the joystick and sound cells, INIT_PT_HI; and the reserved bits of
the two control bytes, whose places the spec does not give (notes/assumptions/23.md). -/
structure LoadParams where
  initMem : Memory
  joy1Addr : Addr
  joy2Addr : Addr
  joyIdle : Byte
  sndEnAddr : Addr
  sndEnValue : Byte
  initPtHi : Vector PageEntry 8
  reservedMask1 : Byte
  reservedMask2 : Byte
  deriving DecidableEq, Repr

/-- Why an image is rejected (70_reset_and_hazards R324). -/
inductive BadRom where
  | undersized
  | badTag
  | badReservedBits
  | badVideoStandard
  | badFill
  | trainerUsed
  | noPrgBanks
  | unsupportedMapper
  deriving DecidableEq, Repr

/-- What load builds (10_state R44). -/
structure Mapper where
  flat : Memory
  banks : Memory
  bankCount : Nat
  pt : Vector PageEntry 16
  deriving DecidableEq, Repr

/-- A byte of the image's header (70_reset_and_hazards R322). -/
def headerByte (image : List Byte) (n : Nat) : Byte := image.getD n 0

/-- The PRG bank count (offset 4). -/
def prgBanks (image : List Byte) : Nat := (headerByte image 4).toNat

/-- The mapper number from the two control bytes' high nibbles (R322). -/
def mapperNumber (image : List Byte) : Byte := (headerByte image 7 &&& 0xF0) ||| (headerByte image 6 >>> 4)

/-- The NES-2.0 flag, bits 3:2 of control byte 2 (R322): set when either bit is (notes/assumptions/23.md). -/
def nes20 (image : List Byte) : Bool := (headerByte image 7 &&& 0x0C) != 0

/-- The least size of an image: header, one PRG bank, one CHR bank (R324). -/
def leastImageSize : Nat := 16 + 16384 + 8192

/-- The checks that fail on an image that is long enough (R324), in the source's order. Nonzero fill bytes are rejected unless
the NES-2.0 flag is set: 90_conflicts C7 resolves it so and lets a model take either reading, and this is the model's choice
of the two (notes/assumptions/23.md). -/
def failedChecks (par : LoadParams) (image : List Byte) : List BadRom :=
  (if image.take 4 = [0x4E, 0x45, 0x53, 0x1A] then [] else [.badTag]) ++
  (if headerByte image 6 &&& par.reservedMask1 = 0 ∧ headerByte image 7 &&& par.reservedMask2 = 0 then []
    else [.badReservedBits]) ++
  (if headerByte image 9 ≤ 1 then [] else [.badVideoStandard]) ++
  (if nes20 image ∨ (image.drop 10).take 6 = List.replicate 6 0 then [] else [.badFill]) ++
  (if (headerByte image 6).getLsbD 2 then [.trainerUsed] else []) ++
  (if prgBanks image = 0 then [.noPrgBanks] else []) ++
  (if mapperNumber image = 0 then [] else [.unsupportedMapper])

/-- The reasons to reject an image; the spec does not say which of several is reported (R324, 93 U13). That all of them are
given, as a list, and that a short image has the one reason undersized, is the model's choice (notes/assumptions/23.md). -/
def badRomReasons (par : LoadParams) (image : List Byte) : List BadRom :=
  if image.length < leastImageSize then [.undersized] else failedChecks par image

/-- The PRG data of an image (R322), `n` banks from offset 16. -/
def prgData (image : List Byte) : List Byte := (image.drop 16).take (prgBanks image * 16384)

/-- The I/O windows zeroed (20_memory R63). -/
def zeroIoWindows (m : Memory) : Memory :=
  Memory.writeBlock (Memory.writeBlock m 0x2000 (List.replicate 0x2000 0)) 0x4000 (List.replicate 0x20 0)

/-- The joystick and sound cells set (20_memory R64). -/
def setDeviceCells (par : LoadParams) (m : Memory) : Memory :=
  Memory.write (Memory.write (Memory.write m par.joy1Addr.toNat par.joyIdle) par.joy2Addr.toNat par.joyIdle)
    par.sndEnAddr.toNat par.sndEnValue

/-- The PRG data in the fixed window: copied once for two banks, twice for one (20_memory R62); nothing for more (R65). -/
def placePrg (m : Memory) (n : Nat) (prg : List Byte) : Memory :=
  if n = 1 then Memory.writeBlock (Memory.writeBlock m 0x8000 prg) 0xC000 prg
  else if n = 2 then Memory.writeBlock m 0x8000 prg
  else m

/-- The page table of an image of more than two banks: slots 0 to 7 flat, slots 8 to 15 INIT_PT_HI (20_memory R65). -/
def largeImagePageTable (par : LoadParams) : Vector PageEntry 16 :=
  #v[.flat 0, .flat 1, .flat 2, .flat 3, .flat 4, .flat 5, .flat 6, .flat 7,
     par.initPtHi[0], par.initPtHi[1], par.initPtHi[2], par.initPtHi[3],
     par.initPtHi[4], par.initPtHi[5], par.initPtHi[6], par.initPtHi[7]]

/-- The mapper of an image with `n` banks of PRG data (70_reset_and_hazards R323). -/
def buildMapper (par : LoadParams) (n : Nat) (prg : List Byte) : Mapper :=
  { flat := setDeviceCells par (zeroIoWindows (placePrg par.initMem n prg))
    banks := if n ≤ 2 then [] else Memory.writeBlock [] 0 prg
    bankCount := if n ≤ 2 then 0 else n
    pt := if n ≤ 2 then identityPageTable else largeImagePageTable par }

/-- `load(image)` (70_reset_and_hazards R323): the mapper, or the reasons for rejecting the image. -/
def load (par : LoadParams) (image : List Byte) : Except (List BadRom) Mapper :=
  match badRomReasons par image with
  | [] => .ok (buildMapper par (prgBanks image) (prgData image))
  | reasons => .error reasons

/-- Construct a session over a register file and a mapper, under given parameters (10_state R47, 46_dispatch_loop R282). -/
def constructSession (params : Params) (r : RegisterFile) (m : Mapper) : State :=
  { pc := r.pc, a := r.a, x := r.x, y := r.y, s := r.s, t := r.t, p := r.p,
    budget := 0, err := .none, stop := false,
    flat := m.flat, banks := m.banks, bankCount := m.bankCount, pt := m.pt, params := params, draws := 0 }

/-- The same, with PC at its default: the word at the reset vector (10_state R47). -/
def bootSession (params : Params) (r : RegisterFile) (m : Mapper) : State :=
  let s := constructSession params r m
  s.setPc (memRead16 s resetVector)

end Sys2Proof.Machine
end

