-- ==== Sys2Proof/Safety.lean ====
section
/-! DEFINITION. The predicates claims are stated in: the machine's invariants, what a status word holds after an operation, what a store leaves, which instructions may write which state. -/

namespace Sys2Proof.Machine

/-! Invariants. -/

/-- The error an instruction latches (10_state R42): a lock opcode or an unknown one. -/
def latches : Instr → Option ErrState
  | .kil _ => some .locked
  | .unk _ => some .unknown
  | _ => none

/-- A page-table entry points into storage that exists (10_state R44). -/
abbrev PageEntry.valid (bankCount : Nat) : PageEntry → Prop
  | .flat _ => True
  | .bank k _ => k < bankCount

/-- The mapper's invariant: both storages canonical and inside their sizes, sixteen valid entries, slots 0 to 7 flat
(10_state R44, 20_memory R65). -/
structure State.Inv (s : State) : Prop where
  flat_wf : Memory.wf s.flat
  flat_size : Memory.below s.flat 65536
  banks_wf : Memory.wf s.banks
  banks_size : Memory.below s.banks (s.bankCount * 16384)
  entries : ∀ i, (s.pt.get i).valid s.bankCount
  low_slots : ∀ i : Fin 16, i.val < 8 → s.pt.get i = .flat i

/-- Pages 0 and 1 of FLAT are reached through slots 0 and 1 and no other (10_state R44 for images of one or two banks). -/
structure State.LowPagesPrivate (s : State) : Prop where
  slot0 : s.pt.get 0 = .flat 0
  slot1 : s.pt.get 1 = .flat 1
  others : ∀ i : Fin 16, 2 ≤ i.val → s.pt.get i ≠ .flat 0 ∧ s.pt.get i ≠ .flat 1

/-- MIRROR is on for all of low memory and its four images agree (20_memory R69). -/
structure State.ImagesAgree (s : State) : Prop where
  mirror : s.params.mirror = true
  limit : 0x2000 ≤ s.params.mirrorLimit.toNat
  low_private : s.LowPagesPrivate
  images : ∀ n k : Nat, n < 0x0800 → k < 4 → Memory.read s.flat (n + k * 0x0800) = Memory.read s.flat n

/-- Every slot is flat and in place: `Cell(a) = FLAT[a]` (20_memory R61). -/
abbrev State.identityMap (s : State) : Prop := s.pt = identityPageTable

/-- Every opcode that latches no error costs something (46_dispatch_loop R279). -/
def Params.costsPositive (p : Params) : Prop :=
  ∀ op b1 b2 : Byte, latches (decodeOp p.sets op b1 b2) = none → 0 < p.costOf op

/-! Status words. -/

/-- `q` is `p` with N and Z written from a byte. -/
def FlagsNZ (p q r : Byte) : Prop :=
  flagOf q .n = r.getLsbD 7 ∧ flagOf q .z = decide (r.toNat = 0) ∧
  ∀ f, f ≠ .n → f ≠ .z → flagOf q f = flagOf p f

/-- `q` is `p` with C written, and N and Z from a byte. -/
def FlagsCNZ (p q : Byte) (c : Bool) (r : Byte) : Prop :=
  flagOf q .c = c ∧ flagOf q .n = r.getLsbD 7 ∧ flagOf q .z = decide (r.toNat = 0) ∧
  ∀ f, f ≠ .c → f ≠ .n → f ≠ .z → flagOf q f = flagOf p f

/-- `q` is `p` with C and V written, and N and Z from a byte. -/
def FlagsCVNZ (p q : Byte) (c v : Bool) (r : Byte) : Prop :=
  flagOf q .c = c ∧ flagOf q .v = v ∧ flagOf q .n = r.getLsbD 7 ∧ flagOf q .z = decide (r.toNat = 0) ∧
  ∀ f, f ≠ .c → f ≠ .v → f ≠ .n → f ≠ .z → flagOf q f = flagOf p f

/-- `q` is `p` with one flag written. -/
def FlagOnly (p q : Byte) (f : Flag) (b : Bool) : Prop :=
  flagOf q f = b ∧ ∀ g', g' ≠ f → flagOf q g' = flagOf p g'

/-- The carry flag as a number. -/
def carryIn (s : State) : Nat := (flagOf s.p .c).toNat

/-! Memory effects. -/

/-- `t` is `s` with one byte stored: every cell stored to reads as the byte, every other cell and every address that
designates another cell reads as before, and nothing outside the storages differs. -/
def StoredAt (s t : State) (a : Addr) (v : Byte) : Prop :=
  (∀ c, t.readCell c = if c ∈ s.storedCells a then v else s.readCell c) ∧
  (∀ b, memRead t b = if s.cellOf b ∈ s.storedCells a then v else memRead s b) ∧
  t = { s with flat := t.flat, banks := t.banks }

/-- `t`'s storages are `s`'s with these bytes pushed from S down (10_state R25): byte `k` in every cell a store to
0x0100 + (S - k) writes, every other cell and every address that designates another cell as before. -/
def PushedBytes (s t : State) (bytes : List Byte) : Prop :=
  (∀ k v, bytes[k]? = some v →
    memRead t (stackAddr (s.s - BitVec.ofNat 8 k)) = v ∧
    ∀ c ∈ s.storedCells (stackAddr (s.s - BitVec.ofNat 8 k)), t.readCell c = v) ∧
  (∀ c, (∀ k < bytes.length, c ∉ s.storedCells (stackAddr (s.s - BitVec.ofNat 8 k))) → t.readCell c = s.readCell c) ∧
  (∀ b, (∀ k < bytes.length, s.cellOf b ∉ s.storedCells (stackAddr (s.s - BitVec.ofNat 8 k))) → memRead t b = memRead s b)

/-- The address after a mode's operand bytes, from a PC past the opcode. -/
def afterOperand (m : Mode) (s : State) : Addr := s.pc + BitVec.ofNat 16 m.operandBytes

/-! What the encodings of an instruction are. -/

/-- These opcode bytes, with any two bytes after them, decode to these instructions under the default opcode sets
(notes/assumptions/13.md). -/
def DecodeTo (ops : List Byte) (forms : Byte → Byte → List Instr) : Prop :=
  ∀ b1 b2, ops.map (fun op => decodeOp defaultSets op b1 b2) = forms b1 b2

/-- The eight forms of a group 1 instruction, in the order of their opcodes. -/
def group1Forms (f : Mode → Instr) (b1 b2 : Byte) : List Instr :=
  [f (.izx b1), f (.zp b1), f (.imm b1), f (.abs (word b2 b1)), f (.izy b1), f (.zpx b1), f (.aby (word b2 b1)),
   f (.abx (word b2 b1))]

/-- The five forms of a shift or rotate, in the order of their opcodes. -/
def shiftForms (f : Target → Instr) (b1 b2 : Byte) : List Instr :=
  [f (.mem (.zp b1)), f .acc, f (.mem (.abs (word b2 b1))), f (.mem (.zpx b1)), f (.mem (.abx (word b2 b1)))]

/-- The four forms of a memory increment or decrement, in the order of their opcodes. -/
def memModifyForms (f : Mode → Instr) (b1 b2 : Byte) : List Instr :=
  [f (.zp b1), f (.abs (word b2 b1)), f (.zpx b1), f (.abx (word b2 b1))]

/-- What a read-modify-write instruction does to memory, with `out` the byte it writes, `q` the status word after: it
completes with that byte stored where the mode says, or faults there when RO_ENFORCE guards the address. -/
def ModifiesMemory (i : Instr) (m : Mode) (s : State) (out q : Byte) : Prop :=
  (s.writeProtected (ea m s) = false →
    ∃ t, exec i s = .next t ∧ StoredAt { s with pc := afterOperand m s, p := q } t (ea m s) out) ∧
  (s.writeProtected (ea m s) = true → exec i s = .fault (.writeProtect (ea m s)))

/-! Who writes what. -/

/-- The instructions that store to their operand's address (60_exceptions R296). -/
def storesToOperand : Instr → Bool
  | .sta _ | .stx _ | .sty _ | .inc _ | .dec _ => true
  | .asl (.mem _) | .rol (.mem _) | .lsr (.mem _) | .ror (.mem _) => true
  | _ => false

/-- The instructions that write A (10_state R22). -/
def writesA : Instr → Bool
  | .ora _ | .and _ | .eor _ | .adc _ | .sbc _ | .lda _ | .pla | .txa | .tya => true
  | .asl .acc | .rol .acc | .lsr .acc | .ror .acc => true
  | _ => false

/-- The instructions that write X (10_state R23). -/
def writesX : Instr → Bool
  | .ldx _ | .inx | .dex | .tax | .tsx => true
  | _ => false

/-- The instructions that write Y (10_state R23). -/
def writesY : Instr → Bool
  | .ldy _ | .iny | .dey | .tay => true
  | _ => false

/-- The instructions that write S: those that push or pop, and TXS (10_state R24). -/
def writesS : Instr → Bool
  | .pha | .php | .pla | .plp | .jsr _ | .rts | .brk | .rti | .txs => true
  | _ => false

/-- The flags an instruction's rule lists as written (10_state R31 to R39): all eight where P is loaded whole, and G where the
spec leaves it unspecified. -/
def flagsWritten : Instr → List Flag
  | .ora _ | .and _ | .eor _ | .lda _ | .ldx _ | .ldy _ | .inc _ | .dec _ => [.n, .z]
  | .inx | .iny | .dex | .dey | .tax | .tay | .txa | .tya | .tsx | .txs | .pla => [.n, .z]
  | .adc _ | .sbc _ => [.c, .v, .n, .z]
  | .cmp _ | .cpx _ | .cpy _ | .asl _ | .rol _ | .lsr _ | .ror _ => [.c, .n, .z]
  | .bit _ => [.z, .n, .v]
  | .clc | .sec => [.c]
  | .cli | .sei => [.i]
  | .clv => [.v]
  | .cld | .sed => [.d]
  | .brk => [.b]
  | .plp | .rti => [.c, .z, .i, .d, .b, .g, .v, .n]
  | .unk _ => [.g]
  | .sta _ | .stx _ | .sty _ | .nop | .dop _ _ | .pha | .php => []
  | .bpl _ | .bmi _ | .bvc _ | .bvs _ | .bcc _ | .bcs _ | .bne _ | .beq _ => []
  | .jmp _ | .jsr _ | .rts | .kil _ => []

/-! Loading. -/

/-- When a reason to reject an image applies (70_reset_and_hazards R324, in the header's numbers of R322). Fill bytes follow
90_conflicts C7's reading; the reserved bits' places are parameters (notes/assumptions/23.md). -/
def BadRom.applies (par : LoadParams) (image : List Byte) : BadRom → Prop
  | .undersized => image.length < 16 + 16384 + 8192
  | .badTag => image.take 4 ≠ [0x4E, 0x45, 0x53, 0x1A]
  | .badReservedBits => image.getD 6 0 &&& par.reservedMask1 ≠ 0 ∨ image.getD 7 0 &&& par.reservedMask2 ≠ 0
  | .badVideoStandard => 1 < (image.getD 9 0).toNat
  | .badFill => (image.getD 7 0).getLsbD 2 = false ∧ (image.getD 7 0).getLsbD 3 = false ∧
      ∃ k, 10 ≤ k ∧ k < 16 ∧ image.getD k 0 ≠ 0
  | .trainerUsed => (image.getD 6 0).getLsbD 2 = true
  | .noPrgBanks => image.getD 4 0 = 0
  | .unsupportedMapper => 0x10 ≤ (image.getD 6 0).toNat ∨ 0x10 ≤ (image.getD 7 0).toNat

/-- The joystick and sound cells and the I/O windows after load, with `read` the bytes of FLAT by index (20_memory R63, R64):
the device cells hold their parameters, where no two of different bytes share an address; every other byte of the windows
is 0x00. -/
def IoCellsAsLoaded (par : LoadParams) (read : Nat → Byte) : Prop :=
  (par.sndEnAddr ≠ par.joy1Addr → read par.joy1Addr.toNat = par.joyIdle) ∧
  (par.sndEnAddr ≠ par.joy2Addr → read par.joy2Addr.toNat = par.joyIdle) ∧
  (par.sndEnAddr ≠ par.joy1Addr → par.sndEnAddr ≠ par.joy2Addr → read par.sndEnAddr.toNat = par.sndEnValue) ∧
  ∀ n, 0x2000 ≤ n → n < 0x4020 → n ∉ [par.joy1Addr.toNat, par.joy2Addr.toNat, par.sndEnAddr.toNat] → read n = 0x00

end Sys2Proof.Machine
end

