-- ==== Sys2Proof/Certificates/Slice0/Obligations.lean ====
section
/-! DEFINITION. The statements for the provers. PC in a statement about `exec` addresses the byte after the opcode, as the spec's rules take it (40_addressing_modes, 44_single_byte, 45_control_flow: "PC addresses the byte after it"). -/

open Sys2Proof Sys2Proof.Machine

/-! Encoding. -/

/-- Under any two opcode sets, decoding the bytes of an instruction that has an encoding gives that instruction and the bytes
after it, every operand at every value (30_encoding R100 to R111). The opcode bytes are the spec's general knowledge
(notes/assumptions/14.md). -/
def Obligations.DecodeUndoesEncode : Prop :=
  ∀ (sets : OpcodeSets) (i : Instr) (rest : List Byte), i.hasEncoding sets = true →
    decode sets (encode i ++ rest) = .ok (i, rest)

/-- Under any two opcode sets, what the decoder answers has an encoding, and encoding it gives back the bytes it read
(30_encoding R103, R112: each byte has exactly one class). The opcode bytes are the spec's general knowledge
(notes/assumptions/14.md). -/
def Obligations.EncodeUndoesDecode : Prop :=
  ∀ (sets : OpcodeSets) (bytes rest : List Byte) (i : Instr), decode sets bytes = .ok (i, rest) →
    i.hasEncoding sets = true ∧ encode i ++ rest = bytes

/-- A byte decodes to a lock opcode exactly when LOCK_OPCODES holds it, to a double no-op when DOP_OPCODES does and
LOCK_OPCODES does not, to an unknown opcode when neither does and it is none of the 151 instruction opcodes; under the default
sets these are the bytes the spec lists (30_encoding R113, R114, R115). The defaults are the spec's decisions D4 and D5; that
overlapping sets go by R103's order is the model's choice (notes/assumptions/13.md). -/
def Obligations.LockDopAndUnknownBytes : Prop :=
  (∀ (sets : OpcodeSets) (op b1 b2 : Byte),
    (decodeOp sets op b1 b2 = .kil op ↔ op ∈ sets.lock) ∧
    (decodeOp sets op b1 b2 = .dop op b1 ↔ op ∉ sets.lock ∧ op ∈ sets.dop) ∧
    (decodeOp sets op b1 b2 = .unk op ↔ op ∉ sets.lock ∧ op ∉ sets.dop ∧
      (op.toNat % 4 = 3 ∨ op.toNat ∈ [0x1A, 0x3A, 0x5A, 0x7A, 0x9E, 0xDA, 0xFA,
        0x0C, 0x1C, 0x3C, 0x5C, 0x7C, 0x9C, 0xDC, 0xFC] ∨ op ∈ defaultSets.lock ∨ op ∈ defaultSets.dop))) ∧
  ∀ op b1 b2 : Byte,
    (decodeOp defaultSets op b1 b2 = .kil op ↔
      op.toNat ∈ [0x02, 0x12, 0x22, 0x32, 0x42, 0x52, 0x62, 0x72, 0x92, 0xB2, 0xD2, 0xF2]) ∧
    (decodeOp defaultSets op b1 b2 = .dop op b1 ↔
      op.toNat ∈ [0x04, 0x14, 0x34, 0x44, 0x54, 0x64, 0x74, 0x80, 0x82, 0x89, 0xC2, 0xD4, 0xE2, 0xF4]) ∧
    (decodeOp defaultSets op b1 b2 = .unk op ↔
      op.toNat % 4 = 3 ∨ op.toNat ∈ [0x1A, 0x3A, 0x5A, 0x7A, 0x9E, 0xDA, 0xFA,
        0x0C, 0x1C, 0x3C, 0x5C, 0x7C, 0x9C, 0xDC, 0xFC])

/-- The length of an instruction is known from its opcode byte alone, and a byte string too short for it is refused by that
byte's name, under any two opcode sets (30_encoding R100). -/
def Obligations.ShortBytesAreRefused : Prop :=
  ∀ sets : OpcodeSets, decode sets [] = .error .empty ∧
  ∀ (op : Byte) (rest : List Byte),
    (∀ b1 b2, (decodeOp sets op b1 b2).operandBytes = (decodeOp sets op 0 0).operandBytes) ∧
    (decode sets (op :: rest) = .error (.truncated op) ↔ rest.length < (decodeOp sets op 0 0).operandBytes)

/-- Words written out from the opcode map (30_encoding R112), one of each family, under the default opcode sets (the
spec's decisions D4 and D5, notes/assumptions/13.md). The opcode bytes are the spec's general knowledge
(notes/assumptions/14.md). -/
def Obligations.SampleWordsDecode : Prop :=
  decode defaultSets [0xBD, 0x34, 0x12] = .ok (.lda (.abx 0x1234), []) ∧
  decode defaultSets [0x91, 0x40] = .ok (.sta (.izy 0x40), []) ∧
  decode defaultSets [0xB6, 0x10] = .ok (.ldx (.zpy 0x10), []) ∧
  decode defaultSets [0x6A] = .ok (.ror .acc, []) ∧
  decode defaultSets [0x2C, 0x34, 0x12] = .ok (.bit (.abs 0x1234), []) ∧
  decode defaultSets [0x9A] = .ok (.txs, []) ∧
  decode defaultSets [0xD0, 0xFE] = .ok (.bne 0xFE, []) ∧
  decode defaultSets [0x6C, 0xFF, 0x12] = .ok (.jmp (.ind 0x12FF), []) ∧
  decode defaultSets [0x02] = .ok (.kil 0x02, []) ∧
  decode defaultSets [0x89, 0x55] = .ok (.dop 0x89 0x55, []) ∧
  decode defaultSets [0x1A] = .ok (.unk 0x1A, [])

/-! Memory. -/

/-- A read goes to the page `a / 4096` at the offset `a mod 4096`; with every slot flat and in place, to FLAT[a] (20_memory
R61). BANK[k][j] is at index k * 16384 + j of the model's bank storage. -/
def Obligations.ReadGoesThroughThePageTable : Prop :=
  ∀ (s : State) (a : Addr),
    (memRead s a = match s.pt.get (Fin.ofNat 16 (a.toNat / 4096)) with
      | .flat i => Memory.read s.flat (i.val * 4096 + a.toNat % 4096)
      | .bank k q => Memory.read s.banks (k * 16384 + (q.val * 4096 + a.toNat % 4096))) ∧
    (s.identityMap → memRead s a = Memory.read s.flat a.toNat)

/-- The whole of MemWrite, under every setting of its parameters: a guarded address under RO_ENFORCE is turned away with
nothing written; otherwise Cell(a), and under MIRROR below the limit the four images in FLAT, hold the byte, and every other
cell and everything outside the storages is unchanged (20_memory R67). -/
def Obligations.MemWriteFollowsThePolicies : Prop :=
  ∀ (s : State) (a : Addr) (v : Byte),
    let turnedAway := s.params.roEnforce = true ∧
      (0x8000 ≤ a.toNat ∨ (s.params.expRomLo.toNat ≤ a.toNat ∧ a.toNat ≤ s.params.expRomHi.toNat))
    let written := fun c : CellRef => c = s.cellOf a ∨
      (s.params.mirror = true ∧ a.toNat < s.params.mirrorLimit.toNat ∧ ∃ k < 4, c = .flat (a.toNat % 0x0800 + k * 0x0800))
    (turnedAway → memWrite s a v = .fault (.writeProtect a)) ∧
    (¬ turnedAway →
      ∃ t, memWrite s a v = .next t ∧ t = { s with flat := t.flat, banks := t.banks } ∧
        ∀ c, (written c → t.readCell c = v) ∧ (¬ written c → t.readCell c = s.readCell c))

/-- On an image of one or two banks a store that is not turned away is seen at its own address, under MIRROR below the limit at
the four images in 0x0000..0x1FFF, and nowhere else (20_memory R67, R69). -/
def Obligations.StoreIsVisibleAtTheFourImages : Prop :=
  ∀ (s : State) (a : Addr) (v : Byte), s.identityMap → s.writeProtected a = false →
    ∃ t, memWrite s a v = .next t ∧
      ∀ b : Addr, memRead t b =
        if b = a ∨ (s.params.mirror = true ∧ a.toNat < s.params.mirrorLimit.toNat ∧
          b.toNat < 0x2000 ∧ b.toNat % 0x0800 = a.toNat % 0x0800)
        then v else memRead s b

/-- A 16-bit read takes the low byte at the address and the high byte at the next one, from 0xFFFF at 0x0000 (20_memory
R83). The wrap is the spec's decision D12. -/
def Obligations.ReadWordIsLittleEndianAndWraps : Prop :=
  ∀ (s : State) (a : Addr),
    (memRead16 s a).toNat = (memRead s a).toNat + 256 * (memRead s (BitVec.ofNat 16 ((a.toNat + 1) % 65536))).toNat

/-- Two storages in canonical form that read alike at every index are the same data, so equal memories are equal states
(model's own form, notes/assumptions/3.md). -/
def Obligations.CanonicalMemoryIsItsReads : Prop :=
  ∀ m m' : Memory, Memory.wf m → Memory.wf m' → (∀ n, Memory.read m n = Memory.read m' n) → m = m'

/-! Addressing modes. -/

/-- The effective address and the width of every mode, in numbers (40_addressing_modes R132 to R140). That an index and a
pointer stay in page zero are the spec's decisions D9 and D10, the unsigned index D11 (notes/assumptions/14.md). -/
def Obligations.EffectiveAddresses : Prop :=
  ∀ (s : State) (d : Byte) (a : Addr),
    ea (.imm d) s = s.pc ∧ operand (.imm d) s = d ∧
    (ea (.zp d) s).toNat = d.toNat ∧
    (ea (.zpx d) s).toNat = (d.toNat + s.x.toNat) % 256 ∧
    (ea (.zpy d) s).toNat = (d.toNat + s.y.toNat) % 256 ∧
    (ea (.abs a) s).toNat = a.toNat ∧
    (ea (.abx a) s).toNat = (a.toNat + s.x.toNat) % 65536 ∧
    (ea (.aby a) s).toNat = (a.toNat + s.y.toNat) % 65536 ∧
    (ea (.izx d) s).toNat =
      (memRead s (BitVec.ofNat 16 ((d.toNat + s.x.toNat) % 256))).toNat +
        256 * (memRead s (BitVec.ofNat 16 ((d.toNat + s.x.toNat + 1) % 256))).toNat ∧
    (ea (.izy d) s).toNat =
      ((memRead s (BitVec.ofNat 16 d.toNat)).toNat +
        256 * (memRead s (BitVec.ofNat 16 ((d.toNat + 1) % 256))).toNat + s.y.toNat) % 65536 ∧
    (∀ m : Mode, m ∈ [.imm d, .zp d, .zpx d, .zpy d, .izx d, .izy d] → skipOperand m s = { s with pc := s.pc + 1 }) ∧
    (∀ m : Mode, m ∈ [.abs a, .abx a, .aby a] → skipOperand m s = { s with pc := s.pc + 2 }) ∧
    (∀ m : Mode, m ∈ [.zp d, .zpx d, .zpy d, .izx d, .izy d, .abs a, .abx a, .aby a] → operand m s = memRead s (ea m s))

/-! Group 1. -/

/-- ORA, AND, EOR: encodings, result, flags, and everything else unchanged (41_alu_group1 R153, R154, R155). -/
def Obligations.LogicInstructions : Prop :=
  DecodeTo [0x01, 0x05, 0x09, 0x0D, 0x11, 0x15, 0x19, 0x1D] (group1Forms .ora) ∧
  DecodeTo [0x21, 0x25, 0x29, 0x2D, 0x31, 0x35, 0x39, 0x3D] (group1Forms .and) ∧
  DecodeTo [0x41, 0x45, 0x49, 0x4D, 0x51, 0x55, 0x59, 0x5D] (group1Forms .eor) ∧
  ∀ (m : Mode) (s : State),
    (∃ q, exec (.ora m) s = .next { s with pc := afterOperand m s, a := s.a ||| operand m s, p := q } ∧
      FlagsNZ s.p q (s.a ||| operand m s)) ∧
    (∃ q, exec (.and m) s = .next { s with pc := afterOperand m s, a := s.a &&& operand m s, p := q } ∧
      FlagsNZ s.p q (s.a &&& operand m s)) ∧
    (∃ q, exec (.eor m) s = .next { s with pc := afterOperand m s, a := s.a ^^^ operand m s, p := q } ∧
      FlagsNZ s.p q (s.a ^^^ operand m s))

/-- LDA, LDX, LDY (41_alu_group1 R156, 42_shift_rmw_group2 R178, 43_group3 R192). -/
def Obligations.LoadInstructions : Prop :=
  DecodeTo [0xA1, 0xA5, 0xA9, 0xAD, 0xB1, 0xB5, 0xB9, 0xBD] (group1Forms .lda) ∧
  DecodeTo [0xA2, 0xA6, 0xAE, 0xB6, 0xBE] (fun b1 b2 =>
    [.ldx (.imm b1), .ldx (.zp b1), .ldx (.abs (word b2 b1)), .ldx (.zpy b1), .ldx (.aby (word b2 b1))]) ∧
  DecodeTo [0xA0, 0xA4, 0xAC, 0xB4, 0xBC] (fun b1 b2 =>
    [.ldy (.imm b1), .ldy (.zp b1), .ldy (.abs (word b2 b1)), .ldy (.zpx b1), .ldy (.abx (word b2 b1))]) ∧
  ∀ (m : Mode) (s : State), ∃ q, FlagsNZ s.p q (operand m s) ∧
    exec (.lda m) s = .next { s with pc := afterOperand m s, a := operand m s, p := q } ∧
    exec (.ldx m) s = .next { s with pc := afterOperand m s, x := operand m s, p := q } ∧
    exec (.ldy m) s = .next { s with pc := afterOperand m s, y := operand m s, p := q }

/-- ADC: the exact sum of A, the operand and the carry, wrapped to a byte; C iff it passes 255; V iff the operands' signs
agree and the result's differs; binary whatever D holds (41_alu_group1 R157). That D is not read is the spec's decision D15. -/
def Obligations.AdcAddsWithCarry : Prop :=
  DecodeTo [0x61, 0x65, 0x69, 0x6D, 0x71, 0x75, 0x79, 0x7D] (group1Forms .adc) ∧
  ∀ (m : Mode) (s : State), ∃ r q,
    exec (.adc m) s = .next { s with pc := afterOperand m s, a := r, p := q } ∧
    r.toNat = (s.a.toNat + (operand m s).toNat + carryIn s) % 256 ∧
    FlagsCVNZ s.p q (decide (255 < s.a.toNat + (operand m s).toNat + carryIn s))
      (((s.a ^^^ r) &&& (operand m s ^^^ r)).getLsbD 7) r

/-- SBC: A less the operand less the borrow, modulo 256; C iff no borrow; V iff the signed subtraction overflows
(41_alu_group1 R158). That the flags are those of Add(v xor 0xFF) is the spec's reading, decision D13
(notes/assumptions/30.md). -/
def Obligations.SbcSubtractsWithBorrow : Prop :=
  DecodeTo [0xE1, 0xE5, 0xE9, 0xED, 0xF1, 0xF5, 0xF9, 0xFD] (group1Forms .sbc) ∧
  ∀ (m : Mode) (s : State), ∃ r q,
    exec (.sbc m) s = .next { s with pc := afterOperand m s, a := r, p := q } ∧
    r.toNat = (s.a.toNat + (255 - (operand m s).toNat) + carryIn s) % 256 ∧
    FlagsCVNZ s.p q (decide ((operand m s).toNat + (1 - carryIn s) ≤ s.a.toNat))
      (decide (s.a.getLsbD 7 ≠ (operand m s).getLsbD 7 ∧ r.getLsbD 7 ≠ s.a.getLsbD 7)) r

/-- ADC of a byte, then SBC of the same byte with the complement of the first carry-in, gives A back (95_test_vectors S12).
It rests on the same reading. -/
def Obligations.SbcUndoesAdc : Prop :=
  ∀ (s : State) (v : Byte), ∃ t u,
    exec (.adc (.imm v)) s = .next t ∧
    exec (.sbc (.imm v)) (t.setFlag .c (!s.flag .c)) = .next u ∧ u.a = s.a

/-- CMP, CPX, CPY: Z iff equal, N the sign bit of the wrapped difference, C the SIGNED comparison; the register, V and
everything else unchanged (41_alu_group1 R159, R160, 43_group3 R194, R195). That N is bit 7 of the wrapped difference is the
spec's decision D14 (notes/assumptions/30.md). -/
def Obligations.CompareInstructions : Prop :=
  DecodeTo [0xC1, 0xC5, 0xC9, 0xCD, 0xD1, 0xD5, 0xD9, 0xDD] (group1Forms .cmp) ∧
  DecodeTo [0xC0, 0xC4, 0xCC] (fun b1 b2 => [.cpy (.imm b1), .cpy (.zp b1), .cpy (.abs (word b2 b1))]) ∧
  DecodeTo [0xE0, 0xE4, 0xEC] (fun b1 b2 => [.cpx (.imm b1), .cpx (.zp b1), .cpx (.abs (word b2 b1))]) ∧
  ∀ (m : Mode) (s : State),
    ∀ x ∈ [(Instr.cmp m, s.a), (Instr.cpx m, s.x), (Instr.cpy m, s.y)],
      ∃ q, exec x.1 s = .next { s with pc := afterOperand m s, p := q } ∧
        flagOf q .z = decide (x.2 = operand m s) ∧
        flagOf q .n = (BitVec.ofNat 8 (x.2.toNat + 256 - (operand m s).toNat)).getLsbD 7 ∧
        flagOf q .c = decide ((operand m s).toInt ≤ x.2.toInt) ∧
        ∀ f, f ≠ .z → f ≠ .n → f ≠ .c → flagOf q f = flagOf s.p f

/-- STA, STX, STY: the register stored at the effective address, no flag and no register changed; or the fault, when
RO_ENFORCE guards the address (41_alu_group1 R161, 42_shift_rmw_group2 R179, 43_group3 R193). -/
def Obligations.StoreInstructions : Prop :=
  DecodeTo [0x81, 0x85, 0x8D, 0x91, 0x95, 0x99, 0x9D] (fun b1 b2 =>
    [.sta (.izx b1), .sta (.zp b1), .sta (.abs (word b2 b1)), .sta (.izy b1), .sta (.zpx b1), .sta (.aby (word b2 b1)),
     .sta (.abx (word b2 b1))]) ∧
  DecodeTo [0x86, 0x8E, 0x96] (fun b1 b2 => [.stx (.zp b1), .stx (.abs (word b2 b1)), .stx (.zpy b1)]) ∧
  DecodeTo [0x84, 0x8C, 0x94] (fun b1 b2 => [.sty (.zp b1), .sty (.abs (word b2 b1)), .sty (.zpx b1)]) ∧
  ∀ (m : Mode) (s : State),
    ∀ x ∈ [(Instr.sta m, s.a), (Instr.stx m, s.x), (Instr.sty m, s.y)],
      (s.writeProtected (ea m s) = false →
        ∃ t, exec x.1 s = .next t ∧ StoredAt { s with pc := afterOperand m s } t (ea m s) x.2) ∧
      (s.writeProtected (ea m s) = true → exec x.1 s = .fault (.writeProtect (ea m s)))

/-! Group 2. -/

/-- ASL and ROL in the accumulator and the memory forms (42_shift_rmw_group2 R171, R172, R173). That ASL fills with 0 is the
spec's general knowledge (notes/assumptions/14.md). -/
def Obligations.LeftShifts : Prop :=
  DecodeTo [0x06, 0x0A, 0x0E, 0x16, 0x1E] (shiftForms .asl) ∧
  DecodeTo [0x26, 0x2A, 0x2E, 0x36, 0x3E] (shiftForms .rol) ∧
  (∀ s : State, ∃ r q, exec (.asl .acc) s = .next { s with a := r, p := q } ∧
    r.toNat = s.a.toNat * 2 % 256 ∧ FlagsCNZ s.p q (s.a.getLsbD 7) r) ∧
  (∀ s : State, ∃ r q, exec (.rol .acc) s = .next { s with a := r, p := q } ∧
    r.toNat = s.a.toNat * 2 % 256 + carryIn s ∧ FlagsCNZ s.p q (s.a.getLsbD 7) r) ∧
  (∀ (m : Mode) (s : State), ∃ r q, r.toNat = (memRead s (ea m s)).toNat * 2 % 256 ∧
    FlagsCNZ s.p q ((memRead s (ea m s)).getLsbD 7) r ∧ ModifiesMemory (.asl (.mem m)) m s r q) ∧
  (∀ (m : Mode) (s : State), ∃ r q, r.toNat = (memRead s (ea m s)).toNat * 2 % 256 + carryIn s ∧
    FlagsCNZ s.p q ((memRead s (ea m s)).getLsbD 7) r ∧ ModifiesMemory (.rol (.mem m)) m s r q)

/-- LSR and ROR in the accumulator and the memory forms (42_shift_rmw_group2 R171, R174, R175). That LSR fills with 0 is the
spec's general knowledge (notes/assumptions/14.md). -/
def Obligations.RightShifts : Prop :=
  DecodeTo [0x46, 0x4A, 0x4E, 0x56, 0x5E] (shiftForms .lsr) ∧
  DecodeTo [0x66, 0x6A, 0x6E, 0x76, 0x7E] (shiftForms .ror) ∧
  (∀ s : State, ∃ r q, exec (.lsr .acc) s = .next { s with a := r, p := q } ∧
    r.toNat = s.a.toNat / 2 ∧ FlagsCNZ s.p q (s.a.getLsbD 0) r ∧ flagOf q .n = false) ∧
  (∀ s : State, ∃ r q, exec (.ror .acc) s = .next { s with a := r, p := q } ∧
    r.toNat = s.a.toNat / 2 + carryIn s * 128 ∧ FlagsCNZ s.p q (s.a.getLsbD 0) r ∧ flagOf q .n = s.flag .c) ∧
  (∀ (m : Mode) (s : State), ∃ r q, r.toNat = (memRead s (ea m s)).toNat / 2 ∧
    FlagsCNZ s.p q ((memRead s (ea m s)).getLsbD 0) r ∧ ModifiesMemory (.lsr (.mem m)) m s r q) ∧
  (∀ (m : Mode) (s : State), ∃ r q, r.toNat = (memRead s (ea m s)).toNat / 2 + carryIn s * 128 ∧
    FlagsCNZ s.p q ((memRead s (ea m s)).getLsbD 0) r ∧ ModifiesMemory (.ror (.mem m)) m s r q)

/-- Nine ROLs of the accumulator restore A and C (42_shift_rmw_group2 R173). -/
def Obligations.NineRolsRestoreAccumulatorAndCarry : Prop :=
  ∀ s : State, ∃ t,
    Nat.repeat (fun r => andThen r (exec (.rol .acc))) 9 (.next s) = .next t ∧ t.a = s.a ∧ t.flag .c = s.flag .c

/-- INC and DEC of memory: one more or one less modulo 256, N and Z from it, C and V kept (42_shift_rmw_group2 R176, R177).
The semantics is the spec's general knowledge (notes/assumptions/14.md). -/
def Obligations.MemoryIncrementDecrement : Prop :=
  DecodeTo [0xE6, 0xEE, 0xF6, 0xFE] (memModifyForms .inc) ∧
  DecodeTo [0xC6, 0xCE, 0xD6, 0xDE] (memModifyForms .dec) ∧
  (∀ (m : Mode) (s : State), ∃ r q, r.toNat = ((memRead s (ea m s)).toNat + 1) % 256 ∧
    FlagsNZ s.p q r ∧ ModifiesMemory (.inc m) m s r q) ∧
  (∀ (m : Mode) (s : State), ∃ r q, r.toNat = ((memRead s (ea m s)).toNat + 255) % 256 ∧
    FlagsNZ s.p q r ∧ ModifiesMemory (.dec m) m s r q)

/-! Group 3. -/

/-- BIT: Z from A and the operand, N and V copied from the operand, all else unchanged (43_group3 R191). The semantics is
the spec's general knowledge, decision D33 (notes/assumptions/14.md). -/
def Obligations.BitTest : Prop :=
  DecodeTo [0x24, 0x2C] (fun b1 b2 => [.bit (.zp b1), .bit (.abs (word b2 b1))]) ∧
  ∀ (m : Mode) (s : State), ∃ q,
    exec (.bit m) s = .next { s with pc := afterOperand m s, p := q } ∧
    flagOf q .z = decide (s.a &&& operand m s = 0) ∧
    flagOf q .n = (operand m s).getLsbD 7 ∧ flagOf q .v = (operand m s).getLsbD 6 ∧
    ∀ f, f ≠ .z → f ≠ .n → f ≠ .v → flagOf q f = flagOf s.p f

/-! Single-byte instructions. -/

/-- NOP changes nothing; DOP steps over its operand byte (44_single_byte R200, R201). That these fourteen bytes are the double
no-ops is the default of a parameter, the spec's decision D5 (notes/assumptions/13.md). -/
def Obligations.NoOperations : Prop :=
  DecodeTo [0xEA] (fun _ _ => [.nop]) ∧
  DecodeTo [0x04, 0x14, 0x34, 0x44, 0x54, 0x64, 0x74, 0x80, 0x82, 0x89, 0xC2, 0xD4, 0xE2, 0xF4] (fun b1 _ =>
    [.dop 0x04 b1, .dop 0x14 b1, .dop 0x34 b1, .dop 0x44 b1, .dop 0x54 b1, .dop 0x64 b1, .dop 0x74 b1, .dop 0x80 b1,
     .dop 0x82 b1, .dop 0x89 b1, .dop 0xC2 b1, .dop 0xD4 b1, .dop 0xE2 b1, .dop 0xF4 b1]) ∧
  ∀ (op d : Byte) (s : State),
    exec .nop s = .next s ∧ exec (.dop op d) s = .next { s with pc := s.pc + 1 }

/-- INX, INY, DEX, DEY wrap modulo 256 and set N and Z (44_single_byte R202 to R205). -/
def Obligations.IndexIncrementDecrement : Prop :=
  DecodeTo [0xE8, 0xC8, 0xCA, 0x88] (fun _ _ => [.inx, .iny, .dex, .dey]) ∧
  ∀ s : State,
    (∃ r q, exec .inx s = .next { s with x := r, p := q } ∧ r.toNat = (s.x.toNat + 1) % 256 ∧ FlagsNZ s.p q r) ∧
    (∃ r q, exec .iny s = .next { s with y := r, p := q } ∧ r.toNat = (s.y.toNat + 1) % 256 ∧ FlagsNZ s.p q r) ∧
    (∃ r q, exec .dex s = .next { s with x := r, p := q } ∧ r.toNat = (s.x.toNat + 255) % 256 ∧ FlagsNZ s.p q r) ∧
    (∃ r q, exec .dey s = .next { s with y := r, p := q } ∧ r.toNat = (s.y.toNat + 255) % 256 ∧ FlagsNZ s.p q r)

/-- The six transfers copy and set N and Z from the destination, TXS too (44_single_byte R209 to R215). That TXS sets the
flags is the spec's reading, decision D17 (notes/assumptions/30.md). -/
def Obligations.RegisterTransfers : Prop :=
  DecodeTo [0xAA, 0xA8, 0x8A, 0x98, 0xBA, 0x9A] (fun _ _ => [.tax, .tay, .txa, .tya, .tsx, .txs]) ∧
  ∀ s : State,
    (∃ q, exec .tax s = .next { s with x := s.a, p := q } ∧ FlagsNZ s.p q s.a) ∧
    (∃ q, exec .tay s = .next { s with y := s.a, p := q } ∧ FlagsNZ s.p q s.a) ∧
    (∃ q, exec .txa s = .next { s with a := s.x, p := q } ∧ FlagsNZ s.p q s.x) ∧
    (∃ q, exec .tya s = .next { s with a := s.y, p := q } ∧ FlagsNZ s.p q s.y) ∧
    (∃ q, exec .tsx s = .next { s with x := s.s, p := q } ∧ FlagsNZ s.p q s.s) ∧
    (∃ q, exec .txs s = .next { s with s := s.x, p := q } ∧ FlagsNZ s.p q s.x)

/-- PHA and PHP: A or P, as it stands, stored at 0x0100 + S, then S one less modulo 256; no flag, no other register
(44_single_byte R220, R221). That P is pushed as it stands is the spec's decision D18. There is no exception under any
configuration, since none guards the stack page (R220; notes/assumptions/31.md). -/
def Obligations.Pushes : Prop :=
  DecodeTo [0x48, 0x08] (fun _ _ => [.pha, .php]) ∧
  ∀ s : State, (stackAddr s.s).toNat = 0x0100 + s.s.toNat ∧
    (∃ t, exec .pha s = .next t ∧ StoredAt { s with s := s.s - 1 } t (stackAddr s.s) s.a) ∧
    (∃ t, exec .php s = .next t ∧ StoredAt { s with s := s.s - 1 } t (stackAddr s.s) s.p)

/-- PLA and PLP: S one more modulo 256, then A with N and Z, or all of P, from 0x0100 + S (44_single_byte R222, R223). That
PLA sets N and Z, and PLP loads all eight bits, is the spec's decision D18 (notes/assumptions/14.md). -/
def Obligations.Pulls : Prop :=
  DecodeTo [0x68, 0x28] (fun _ _ => [.pla, .plp]) ∧
  ∀ s : State, (stackAddr (s.s + 1)).toNat = 0x0100 + (s.s.toNat + 1) % 256 ∧
    (∃ q, exec .pla s = .next { s with s := s.s + 1, a := memRead s (stackAddr (s.s + 1)), p := q } ∧
      FlagsNZ s.p q (memRead s (stackAddr (s.s + 1)))) ∧
    exec .plp s = .next { s with s := s.s + 1, p := memRead s (stackAddr (s.s + 1)) }

/-- A pushed accumulator is pulled back with the pointer where it was, whatever is in A when it is pulled, and so is a pushed
status (44_single_byte R219, R222; 10_state R26; the status by the spec's decision D18). -/
def Obligations.PullRestoresPushed : Prop :=
  ∀ (s : State) (b : Byte), ∃ t u w,
    exec .pha s = .next t ∧ exec .pla { t with a := b } = .next u ∧ u.a = s.a ∧ u.s = s.s ∧
    exec .php s = .next w ∧ exec .plp { w with p := b } = .next { w with s := s.s }

/-- The seven flag instructions write one bit of P and nothing else (44_single_byte R229 to R236). -/
def Obligations.FlagInstructions : Prop :=
  DecodeTo [0x18, 0x38, 0x58, 0x78, 0xB8, 0xD8, 0xF8] (fun _ _ => [.clc, .sec, .cli, .sei, .clv, .cld, .sed]) ∧
  ∀ s : State, ∀ x ∈ [(Instr.clc, Flag.c, false), (.sec, .c, true), (.cli, .i, false), (.sei, .i, true),
      (.clv, .v, false), (.cld, .d, false), (.sed, .d, true)],
    ∃ q, exec x.1 s = .next { s with p := q } ∧ FlagOnly s.p q x.2.1 x.2.2

/-! Control flow. -/

/-- The eight branches: past the operand byte, plus the signed operand when the flag has the value; modulo 65536; nothing
else changes (45_control_flow R241 to R249). -/
def Obligations.Branches : Prop :=
  DecodeTo [0x10, 0x30, 0x50, 0x70, 0x90, 0xB0, 0xD0, 0xF0] (fun b1 _ =>
    [.bpl b1, .bmi b1, .bvc b1, .bvs b1, .bcc b1, .bcs b1, .bne b1, .beq b1]) ∧
  ∀ (d : Byte) (s : State), ∀ x ∈ [(Instr.bpl d, Flag.n, false), (.bmi d, .n, true), (.bvc d, .v, false),
      (.bvs d, .v, true), (.bcc d, .c, false), (.bcs d, .c, true), (.bne d, .z, false), (.beq d, .z, true)],
    ∃ target : Addr, exec x.1 s = .next { s with pc := target } ∧
      (flagOf s.p x.2.1 = x.2.2 → (target.toNat : Int) = (s.pc.toNat + 1 + d.toInt) % 65536) ∧
      (flagOf s.p x.2.1 ≠ x.2.2 → target = s.pc + 1)

/-- JMP absolute goes to its operand, JMP indirect to the word at its operand, whose high byte is at the next address
(45_control_flow R250, R251). -/
def Obligations.Jumps : Prop :=
  DecodeTo [0x4C, 0x6C] (fun b1 b2 => [.jmp (.abs (word b2 b1)), .jmp (.ind (word b2 b1))]) ∧
  ∀ (a : Addr) (s : State),
    exec (.jmp (.abs a)) s = .next { s with pc := a } ∧
    exec (.jmp (.ind a)) s = .next { s with pc := word (memRead s (a + 1)) (memRead s a) }

/-- JSR: the address of its third byte, low byte at 0x0100 + S, high byte one cell down, S two less, PC at the operand; no
other register, no flag, no other cell; the bytes pushed are in the mirror images of their cells too (45_control_flow R252,
R258; 10_state R25). That the target is read before the pushes is the spec's decision D21 (notes/assumptions/16.md).
There is no exception under any configuration, since none guards the stack page (R252; notes/assumptions/31.md). -/
def Obligations.SubroutineCall : Prop :=
  DecodeTo [0x20] (fun b1 b2 => [.jsr (word b2 b1)]) ∧
  ∀ (a : Addr) (s : State),
    ∃ t,
      exec (.jsr a) s = .next t ∧
      t = { s with pc := a, s := s.s - 2, flat := t.flat, banks := t.banks } ∧
      PushedBytes s t [BitVec.ofNat 8 ((s.pc + 1).toNat % 256), BitVec.ofNat 8 ((s.pc + 1).toNat / 256)]

/-- RTS pops the high byte, then the low byte, and adds one; after a JSR it comes back to the byte after JSR's third one, with S
where it was (45_control_flow R253). -/
def Obligations.SubroutineReturn : Prop :=
  DecodeTo [0x60] (fun _ _ => [.rts]) ∧
  (∀ s : State, exec .rts s = .next { s with
    s := s.s + 2
    pc := word (memRead s (stackAddr (s.s + 1))) (memRead s (stackAddr (s.s + 2))) + 1 }) ∧
  ∀ (a : Addr) (s : State), ∃ t u,
    exec (.jsr a) s = .next t ∧ exec .rts t = .next u ∧ u = { t with pc := s.pc + 2, s := s.s }

/-- BRK: past the padding byte, the return address pushed low byte first, then the status with the old B; B set, no other
flag; PC from the vector at 0xFFFE; no other register, no other cell; the bytes pushed are in the mirror images of their cells
too (45_control_flow R256, 60_exceptions R298, 10_state R25). The saved address, the old B and the untouched I and D are the
spec's decision D19. There is no exception under any configuration, since none guards the stack
page (44_single_byte R220; notes/assumptions/31.md). -/
def Obligations.BreakEntry : Prop :=
  DecodeTo [0x00] (fun _ _ => [.brk]) ∧
  ∀ s : State,
    ∃ t,
      exec .brk s = .next t ∧
      t = { s with pc := t.pc, s := s.s - 3, p := t.p, flat := t.flat, banks := t.banks } ∧
      PushedBytes s t [BitVec.ofNat 8 ((s.pc + 1).toNat % 256), BitVec.ofNat 8 ((s.pc + 1).toNat / 256), s.p] ∧
      FlagOnly s.p t.p .b true ∧
      t.pc = word (memRead t 0xFFFF) (memRead t 0xFFFE)

/-- RTI pops the whole status, then the high byte, then the low byte, and adds nothing; after a BRK it comes back to the byte
after the padding byte with S and every flag where they were (45_control_flow R257, 60_exceptions R298, R299). The three
increments are the spec's decision D20 (notes/assumptions/30.md), what BRK saves is D19. -/
def Obligations.BreakReturn : Prop :=
  DecodeTo [0x40] (fun _ _ => [.rti]) ∧
  (∀ s : State, exec .rti s = .next { s with
    p := memRead s (stackAddr (s.s + 1))
    s := s.s + 3
    pc := word (memRead s (stackAddr (s.s + 2))) (memRead s (stackAddr (s.s + 3))) }) ∧
  ∀ s : State, ∃ t u,
    exec .brk s = .next t ∧ exec .rti t = .next u ∧ u = { t with pc := s.pc + 1, s := s.s, p := s.p }

/-- A lock opcode latches `locked` and changes nothing else (45_control_flow R260). The set of lock opcodes is the spec's
decision D4 (notes/assumptions/13.md). -/
def Obligations.LockOpcodeLatches : Prop :=
  DecodeTo [0x02, 0x12, 0x22, 0x32, 0x42, 0x52, 0x62, 0x72, 0x92, 0xB2, 0xD2, 0xF2] (fun _ _ =>
    [.kil 0x02, .kil 0x12, .kil 0x22, .kil 0x32, .kil 0x42, .kil 0x52, .kil 0x62, .kil 0x72, .kil 0x92, .kil 0xB2,
     .kil 0xD2, .kil 0xF2]) ∧
  ∀ (op : Byte) (s : State), exec (.kil op) s = .next { s with err := .locked }

/-- An unknown opcode latches `unknown`; registers, memory and the flags other than G are unchanged; PC is past the opcode when
its low bits are 11, and otherwise there or one or two bytes further (45_control_flow R262). The values of G and of PC among
the three are free values (notes/assumptions/7.md, notes/assumptions/8.md): the statement holds for every value of them. -/
def Obligations.UnknownOpcodeLatches : Prop :=
  ∀ (op : Byte) (s : State), ∃ t,
    exec (.unk op) s = .next t ∧
    t = { s with err := .unknown, p := t.p, pc := t.pc } ∧
    (∀ f, f ≠ .g → flagOf t.p f = flagOf s.p f) ∧
    (op.toNat % 4 = 3 → t.pc = s.pc) ∧
    (t.pc = s.pc ∨ t.pc = s.pc + 1 ∨ t.pc = s.pc + 2)

/-! Steps. -/

/-- When no error is latched and the bytes at PC decode to `i`, the step is `exec i` on the state with PC past the opcode and
the opcode's cost debited, saturating at 0; a next state then has T drawn afresh, and a stop is the instruction's stop
(46_dispatch_loop R270, R271; 10_state R28). That the debit saturates is the spec's decision D8 (notes/assumptions/30.md).
T's value is a free value (notes/assumptions/6.md). -/
def Obligations.StepRunsTheDecodedInstruction : Prop :=
  ∀ (s : State) (i : Instr) (rest : List Byte), s.err = .none →
    decode s.params.sets [memRead s s.pc, memRead s (s.pc + 1), memRead s (s.pc + 2)] = .ok (i, rest) →
    let s₀ := { s with pc := s.pc + 1, budget := s.budget - min s.budget (s.cycleCost (memRead s s.pc)) }
    step s = match exec i s₀ with
      | .next t => .next { t with t := Config.freeScratch t.draws, draws := t.draws + 1 }
      | .fault e => .fault e
      | .refused e => .refused e

/-- The bytes at PC always decode, under any two opcode sets: every opcode byte has a class (46_dispatch_loop R272). -/
def Obligations.EveryFetchDecodes : Prop :=
  ∀ s : State, ∃ i rest,
    decode s.params.sets [memRead s s.pc, memRead s (s.pc + 1), memRead s (s.pc + 2)] = .ok (i, rest) ∧
    i.hasEncoding s.params.sets = true ∧ rest.length = 2 - i.operandBytes

/-- While an error is latched no step is possible, and a Run changes nothing and returns the budget (46_dispatch_loop R273,
R277; 93 U4). That `step` answers a fault for the stuck state is the model's form (notes/assumptions/10.md). That Run
returns the old budget is the spec's decision D35. -/
def Obligations.LatchedErrorStopsStepsAndRuns : Prop :=
  ∀ s : State,
    (s.err = .locked → step s = .fault .haltedLocked) ∧
    (s.err = .unknown → step s = .fault .haltedUnknown) ∧
    (s.err ≠ .none → ∀ (bound n : Nat) (arrivals : List Bool),
      run bound n arrivals s = .next ⟨endByError s.err, s.budget, s⟩)

/-- With no error latched a step answers a next state, or the write-protect fault: then RO_ENFORCE is on, the address is
guarded, and the instruction stores to its operand; so a push never stops one, the stack page being never guarded
(44_single_byte R220; notes/assumptions/31.md). With RO_ENFORCE off
it always answers a next state (60_exceptions R290, R296, R297). -/
def Obligations.OnlyWriteProtectStopsAStep : Prop :=
  ∀ s : State, s.err = .none →
    ((∃ t, step s = .next t) ∨
      ∃ a, step s = .fault (.writeProtect a) ∧ s.params.roEnforce = true ∧ s.params.guarded a = true ∧
        storesToOperand (fetchInstr s) = true) ∧
    (s.params.roEnforce = false → ∃ t, step s = .next t)

/-- What a step does to registers, memory and the latched error does not depend on the budget or the stop flag, and it leaves
the stop flag alone (46_dispatch_loop R270). -/
def Obligations.StepIgnoresBudgetAndStop : Prop :=
  ∀ (s : State) (b : Nat) (st : Bool),
    (∀ t, step s = .next t → step { s with budget := b, stop := st } =
      .next { t with budget := b - min b (s.cycleCost (memRead s s.pc)), stop := st }) ∧
    (∀ e, step s = .fault e → step { s with budget := b, stop := st } = .fault e)

/-- In the default cost table every entry is at least 2, and the table leaves open exactly the lock and unknown opcodes, whose
cost is a constant of no known value (46_dispatch_loop R278, R279). The entries are the spec's general knowledge, decision D7
(notes/assumptions/9.md, notes/assumptions/14.md). -/
def Obligations.CostsAreAtLeastTwo : Prop :=
  ∀ op b1 b2 : Byte,
    (latches (decodeOp defaultSets op b1 b2) = none →
      tableCost op = some (defaultParams.costOf op) ∧ 2 ≤ defaultParams.costOf op) ∧
    (latches (decodeOp defaultSets op b1 b2) ≠ none →
      tableCost op = none ∧ defaultParams.costOf op = Config.openCost op)

/-! Whole-machine rules. -/

/-- No step changes the page table, the bank count or the parameters; the mapper's invariant is kept (10_state R44, R46,
20_memory R75, R78). -/
def Obligations.StepKeepsTheMapperInvariant : Prop :=
  ∀ s t : State, s.Inv → step s = .next t →
    t.Inv ∧ t.pt = s.pt ∧ t.bankCount = s.bankCount ∧ t.params = s.params ∧ t.stop = s.stop

/-- Constructing a session leaves no error, no budget and no stop request, the registers the host gave and the mapper's
storage and page table; booting it differs in PC alone, which is the word at 0xFFFC of any mapper (10_state R47,
70_reset_and_hazards R320). Budget 0, stop clear and PC's default are the spec's decisions D8, D30 and D22. The state after
reset is such a session: its registers and memory bytes, its mapper of one or two banks with the identity page table, and its
default parameters, MIRROR on, are the model's choice (notes/assumptions/1.md to 5.md, 11.md); it has the mapper's invariant
and agreeing images. -/
def Obligations.ResetMeetsTheInvariants : Prop :=
  (∀ (params : Params) (r : RegisterFile) (m : Mapper),
    let s := constructSession params r m
    let b := bootSession params r m
    s.budget = 0 ∧ s.err = .none ∧ s.stop = false ∧ readRegisters s = r ∧ s.params = params ∧
    s.flat = m.flat ∧ s.banks = m.banks ∧ s.bankCount = m.bankCount ∧ s.pt = m.pt ∧
    b = { s with pc := b.pc } ∧ b.pc.toNat = (memRead b 0xFFFC).toNat + 256 * (memRead b 0xFFFD).toNat) ∧
  State.reset = bootSession defaultParams (readRegisters State.reset)
    { flat := [], banks := [], bankCount := 0, pt := identityPageTable } ∧
  State.reset.Inv ∧ State.reset.ImagesAgree ∧ State.reset.identityMap ∧
  State.reset.budget = 0 ∧ State.reset.err = .none ∧ State.reset.stop = false ∧
  State.reset.pc = memRead16 State.reset resetVector

/-- A session over a loaded image meets the mapper's invariant, from which every step and every bank switch keeps it, when the
parameter INIT_MEM is in canonical form inside its 65536 bytes and, for an image of more than two banks, every entry of
INIT_PT_HI names a bank there is (10_state R44, R47; 20_memory R62, R65; 70_reset_and_hazards R323). -/
def Obligations.LoadedSessionMeetsTheInvariant : Prop :=
  ∀ (par : LoadParams) (params : Params) (r : RegisterFile) (image : List Byte) (m : Mapper),
    Memory.wf par.initMem → Memory.below par.initMem 65536 →
    (2 < (image.getD 4 0).toNat → ∀ i, (par.initPtHi.get i).valid (image.getD 4 0).toNat) →
    load par image = .ok m →
    (constructSession params r m).Inv ∧ (bootSession params r m).Inv

/-- With MIRROR on for all of low memory (MIRROR_LIMIT at least 0x2000, the spec's decision D24), the four images stay equal
through every step, once they are (20_memory R69). -/
def Obligations.StepKeepsTheImagesEqual : Prop :=
  ∀ s t : State, s.ImagesAgree → step s = .next t → t.ImagesAgree

/-- An instruction writes only the flags its own rule lists (10_state R31 to R39). -/
def Obligations.OnlyListedFlagsChange : Prop :=
  ∀ (i : Instr) (s t : State), exec i s = .next t → ∀ f, f ∉ flagsWritten i → t.flag f = s.flag f

/-- A, X, Y and S change only under the instructions the spec lists as their writers; the latched error only by a lock or an
unknown opcode; no instruction writes the budget or the stop flag (10_state R22, R23, R24, R28, R40 to R43). That `exec`
leaves T alone is the model's cut: the step draws it afterwards (notes/assumptions/6.md, 29.md). -/
def Obligations.OnlyListedRegistersChange : Prop :=
  ∀ (i : Instr) (s t : State), exec i s = .next t →
    (writesA i = false → t.a = s.a) ∧ (writesX i = false → t.x = s.x) ∧
    (writesY i = false → t.y = s.y) ∧ (writesS i = false → t.s = s.s) ∧
    t.t = s.t ∧ t.budget = s.budget ∧ t.stop = s.stop ∧ t.err = (latches i).getD s.err

/-! Runs. -/

/-- Where every opcode that latches no error costs something, a Run of any length, with stop requests arriving anywhere, ends
within n + 1 checks of its loop: budget spent with no error, stop observed with budget left, an error latched, or abandoned by
a write-protect fault under RO_ENFORCE; and what it returns is the budget left (46_dispatch_loop R274, R281, R279). Whatever
the costs, a Run that ends within a bound ends the same way within every larger one. The list of arrivals and the bound are
the model's (notes/assumptions/18.md, 19.md); the open costs may be 0 (notes/assumptions/9.md). -/
def Obligations.EveryRunEnds : Prop :=
  (∀ (bound n : Nat) (arrivals : List Bool) (s : State), s.params.costsPositive → n < bound →
    (∃ r, run bound n arrivals s = .next r ∧ r.cyclesLeft = r.state.budget ∧
      ((r.ended = .exhausted ∧ r.state.budget = 0 ∧ r.state.err = .none) ∨
       (r.ended = .stopped ∧ 0 < r.state.budget ∧ r.state.err = .none ∧ r.state.stop = false) ∨
       (r.ended = .locked ∧ r.state.err = .locked) ∨
       (r.ended = .unknown ∧ r.state.err = .unknown))) ∨
    ∃ a, run bound n arrivals s = .fault (.writeProtect a) ∧ s.params.roEnforce = true ∧ s.params.guarded a = true) ∧
  (∀ (bound more n : Nat) (arrivals : List Bool) (s : State),
    (∀ r, run bound n arrivals s = .next r → r.ended ≠ .unfinished) →
    run (bound + more) n arrivals s = run bound n arrivals s) ∧
  defaultParams.costsPositive

/-- A Run of exactly the cost of the opcode at PC makes one step and leaves 0, whatever the cost table (46_dispatch_loop
R279). The loop's bound is the model's (notes/assumptions/19.md). -/
def Obligations.ExactCostRunsOneInstruction : Prop :=
  ∀ (bound : Nat) (s t : State), 1 < bound → s.err = .none → s.stop = false → 0 < s.cycleCost (memRead s s.pc) →
    step { s with budget := s.cycleCost (memRead s s.pc) } = .next t →
    run bound (s.cycleCost (memRead s s.pc)) [] s = .next ⟨endByError t.err, 0, t⟩ ∧ t.budget = 0

/-- A Run that meets a lock opcode first ends locked, with the requested budget less that opcode's cost (45_control_flow R260,
46_dispatch_loop R279), under any LOCK_OPCODES and any cost table. That the budget saturates at 0 is the spec's decision D8
(notes/assumptions/30.md); which bytes the set holds by default is D4 (notes/assumptions/13.md), their default cost an open
constant (notes/assumptions/9.md); the loop's bound is the model's (notes/assumptions/19.md). -/
def Obligations.LockOpcodeEndsTheRun : Prop :=
  ∀ (bound n : Nat) (s : State), 1 < bound → s.err = .none → s.stop = false → 0 < n →
    memRead s s.pc ∈ s.params.sets.lock →
    ∃ t, run bound n [] s = .next ⟨.locked, n - min n (s.cycleCost (memRead s s.pc)), t⟩ ∧
      t.err = .locked ∧ t.pc = s.pc + 1 ∧ t.budget = n - min n (s.cycleCost (memRead s s.pc)) ∧
      t.a = s.a ∧ t.x = s.x ∧ t.y = s.y ∧ t.s = s.s ∧ t.p = s.p ∧
      ∀ b, memRead t b = memRead s b

/-- A stop request pending at the start of a Run ends it before its first fetch and is cleared (46_dispatch_loop R275,
R276). That the flag is cleared then is the spec's decision D30. -/
def Obligations.PendingStopEndsTheRun : Prop :=
  ∀ (bound n : Nat) (arrivals : List Bool) (s : State), 0 < bound → s.err = .none → 0 < n →
    run bound n arrivals (requestStop s) = .next ⟨.stopped, n, { s with budget := n, stop := false }⟩

/-! Host operations. -/

/-- `switchBank` maps the four sub-regions of a bank into the low or the high window and changes nothing else (20_memory R78).
For an image of one or two banks and for a bank that is not there the spec gives the call no meaning (93 U12); the refusal and
its two names are the model's choice (notes/assumptions/24.md). -/
def Obligations.SwitchBankMapsOneWindow : Prop :=
  ∀ (s : State) (k : Nat),
    (2 < s.bankCount → k < s.bankCount → ∀ w, ∃ t, switchBank s k w = .next t ∧ t = { s with pt := t.pt } ∧
      ∀ i : Fin 16, t.pt.get i =
        if (w = .low ∧ 8 ≤ i.val ∧ i.val < 12) ∨ (w = .high ∧ 12 ≤ i.val)
        then .bank k (Fin.ofNat 4 (i.val % 4)) else s.pt.get i) ∧
    (s.bankCount ≤ 2 → ∀ w, switchBank s k w = .refused .switchBankSmallImage) ∧
    (2 < s.bankCount → s.bankCount ≤ k → ∀ w, switchBank s k w = .refused .switchBankNoSuchBank)

/-- `switchBank` keeps the mapper's invariant (10_state R44, 20_memory R78). -/
def Obligations.SwitchBankKeepsTheInvariant : Prop :=
  ∀ (s t : State) (k : Nat) (w : Window), s.Inv → switchBank s k w = .next t → t.Inv

/-- Re-initialising clears the error, the budget and the stop request, takes the host's registers and leaves the whole mapper
and the parameters alone; overwriting the registers alone clears nothing and leaves those alone too (60_exceptions R294,
10_state R48). What re-initialising does is the spec's decision D22 (notes/assumptions/26.md). -/
def Obligations.ReinitialiseClearsTheSession : Prop :=
  ∀ (s : State) (r : RegisterFile),
    readRegisters (reinitialize s r) = r ∧ readRegisters (overwriteRegisters s r) = r ∧
    (reinitialize s r).err = .none ∧ (reinitialize s r).budget = 0 ∧ (reinitialize s r).stop = false ∧
    (overwriteRegisters s r).err = s.err ∧ (overwriteRegisters s r).budget = s.budget ∧
    (overwriteRegisters s r).stop = s.stop ∧
    ∀ t ∈ [reinitialize s r, overwriteRegisters s r],
      t.flat = s.flat ∧ t.banks = s.banks ∧ t.bankCount = s.bankCount ∧ t.pt = s.pt ∧ t.params = s.params ∧
      ∀ b, memRead t b = memRead s b

/-- After loading an image whose header gives one or two PRG banks (offset 4), the PRG window holds the image's bytes from
offset 16 on, a single bank in both halves; the joystick and sound cells hold JOY_IDLE, JOY_IDLE and SND_EN_VALUE, where their
addresses differ; the two I/O windows otherwise read 0x00; and every byte of no rule is the parameter INIT_MEM (20_memory R62,
R63, R64, R68; 70_reset_and_hazards R322). The device cells' parameters and INIT_MEM are the spec's decisions D27 and D23. A
byte the image is too short to hold is INIT_MEM's, and device cells may be anywhere (notes/assumptions/23.md). -/
def Obligations.SmallImageIsPlaced : Prop :=
  ∀ (par : LoadParams) (params : Params) (r : RegisterFile) (image : List Byte) (m : Mapper),
    load par image = .ok m → (image.getD 4 0).toNat ≤ 2 →
    let s := constructSession params r m
    s.pt = identityPageTable ∧ s.bankCount = 0 ∧
    IoCellsAsLoaded par (fun n => memRead s (BitVec.ofNat 16 n)) ∧
    ∀ a : Addr, a ∉ [par.joy1Addr, par.joy2Addr, par.sndEnAddr] →
      (0x8000 ≤ a.toNat →
        let j := (a.toNat - 0x8000) % ((image.getD 4 0).toNat * 16384)
        memRead s a = if 16 + j < image.length then image.getD (16 + j) 0 else Memory.read par.initMem a.toNat) ∧
      (a.toNat < 0x2000 ∨ (0x4020 ≤ a.toNat ∧ a.toNat < 0x8000) → memRead s a = Memory.read par.initMem a.toNat)

/-- After loading an image whose header gives more than two PRG banks, every bank array holds its part of the image from offset
16 on, slots 0 to 7 are flat and in place, slots 8 to 15 are the parameter INIT_PT_HI (the spec's decision D28), and FLAT holds
the device cells, zeroed I/O windows, and INIT_MEM elsewhere (20_memory R63, R64, R65, R68; 70_reset_and_hazards R322). A byte
the image is too short to hold reads as unlisted (notes/assumptions/23.md); what the accessor to FLAT answers past 0xFFFF is
the model's choice (notes/assumptions/32.md). -/
def Obligations.LargeImageKeepsItsBanks : Prop :=
  ∀ (par : LoadParams) (params : Params) (r : RegisterFile) (image : List Byte) (m : Mapper),
    load par image = .ok m → 2 < (image.getD 4 0).toNat →
    let s := constructSession params r m
    s.bankCount = (image.getD 4 0).toNat ∧
    (∀ k j, k < s.bankCount → j < 16384 →
      accessBank s k j = if 16 + (k * 16384 + j) < image.length then image.getD (16 + (k * 16384 + j)) 0 else unlisted) ∧
    (∀ i : Fin 16, i.val < 8 → s.pt.get i = .flat i) ∧
    (∀ i : Fin 8, s.pt.get (Fin.ofNat 16 (8 + i.val)) = par.initPtHi.get i) ∧
    IoCellsAsLoaded par (accessFlat s) ∧
    ∀ n, n ∉ [par.joy1Addr.toNat, par.joy2Addr.toNat, par.sndEnAddr.toNat] → n < 0x2000 ∨ 0x4020 ≤ n →
      accessFlat s n = Memory.read par.initMem n

/-- An image is accepted exactly when none of the reasons to reject it applies (70_reset_and_hazards R323, R324, in the header's
numbers of R322). An image shorter than a header, one PRG bank and one CHR bank is rejected as undersized, for that reason
alone; a longer one for all the reasons that apply. That all of them are reported, as a list, and the reading of the fill bytes
and of the NES-2.0 flag are the model's choices (notes/assumptions/23.md; 93 U13, 90_conflicts C7). The tag and the bit
positions are the spec's general knowledge, decision D37; a count of 0 is rejected by D29. -/
def Obligations.LoadAcceptsOrRejects : Prop :=
  ∀ (par : LoadParams) (image : List Byte),
    ((∀ reason, ¬ BadRom.applies par image reason) ↔ ∃ m, load par image = .ok m) ∧
    (image.length < 24592 → load par image = .error [.undersized]) ∧
    (24592 ≤ image.length → ∀ reasons, load par image = .error reasons →
      reasons ≠ [] ∧ ∀ reason, reason ∈ reasons ↔ BadRom.applies par image reason)
end

