-- ==== Sys2Proof/Laws/Flags.lean ====
section
/-! SUPPORT. What the flag operations write and what they keep. -/

namespace Sys2Proof.Machine

/-- Two status words with the same eight flags are the same word. -/
theorem flags_ext (p q : Byte) (h : ∀ f, flagOf p f = flagOf q f) : p = q := by
  apply BitVec.eq_of_getLsbD_eq
  intro i hi
  have h0 := h .c; have h1 := h .z; have h2 := h .i; have h3 := h .d
  have h4 := h .b; have h5 := h .g; have h6 := h .v; have h7 := h .n
  simp only [flagOf, Flag.pos] at h0 h1 h2 h3 h4 h5 h6 h7
  interval_cases i <;> assumption

/-- Writing a flag writes that flag only. -/
@[simp] theorem flagOf_withFlag (p : Byte) (f k : Flag) (b : Bool) :
    flagOf (withFlag p f b) k = if f = k then b else flagOf p k := by
  cases b <;> cases f <;> cases k <;> simp [flagOf, withFlag, Flag.pos]

/-- `SetNZ` writes N and Z only. -/
@[simp] theorem flagOf_setNZ (p v : Byte) (k : Flag) :
    flagOf (setNZ p v) k = if k = .z then v == 0 else if k = .n then v.msb else flagOf p k := by
  cases k <;> simp [setNZ]

/-- The flags of a shift are C, N and Z only. -/
@[simp] theorem flagOf_setCNZ (p v : Byte) (c : Bool) (k : Flag) :
    flagOf (setCNZ p c v) k =
      if k = .z then v == 0 else if k = .n then v.msb else if k = .c then c else flagOf p k := by
  cases k <;> simp [setCNZ]

/-- N and Z are never both set after `SetNZ` (41_alu_group1 R150). -/
theorem setNZ_not_both (p v : Byte) : ¬ (flagOf (setNZ p v) .n = true ∧ flagOf (setNZ p v) .z = true) := by
  simp only [flagOf_setNZ, if_true, reduceCtorEq, if_false]
  rintro ⟨hn, hz⟩
  simp only [beq_iff_eq] at hz
  simp [hz] at hn

/-- BIT writes Z, N and V only (43_group3 R191). -/
@[simp] theorem flagOf_aluBit (r v p : Byte) (k : Flag) :
    flagOf (aluBit r v p) k =
      if k = .z then (r &&& v) == 0 else if k = .n then v.getLsbD 7 else if k = .v then v.getLsbD 6 else flagOf p k := by
  cases k <;> simp [aluBit]

end Sys2Proof.Machine
end

