-- ==== Sys2Proof/Laws/Memory.lean ====
section
/-! SUPPORT. What storage operations do: a read after a write, and that every operation keeps the canonical form. -/

namespace Sys2Proof.Machine

/-- Taking an index's entries out leaves it reading as unlisted and every other index as it was. -/
theorem Memory.read_filter (m : Memory) (n k : Nat) :
    Memory.read (m.filter (fun c => c.1 != n)) k = if n = k then unlisted else Memory.read m k := by
  induction m with
  | nil => simp [Memory.read]
  | cons c rest ih =>
    by_cases h : c.1 = n
    · subst h
      by_cases hk : c.1 = k
      · subst hk
        simpa using ih
      · simp [Memory.read, ih, hk]
    · by_cases hk : c.1 = k
      · subst hk
        simp [Memory.read, h, Ne.symm h]
      · simp [Memory.read, ih, h, hk]

/-- Listing an entry at a free index makes that index read as its byte and leaves every other index as it was. -/
theorem Memory.read_insert (m : Memory) (n k : Nat) (v : Byte) (free : ∀ c ∈ m, c.1 ≠ n) :
    Memory.read (Memory.insert m n v) k = if n = k then v else Memory.read m k := by
  induction m with
  | nil => simp [Memory.insert, Memory.read]
  | cons c rest ih =>
    have hc : c.1 ≠ n := free c (by simp)
    have ih' := ih fun d hd => free d (by simp [hd])
    by_cases hlt : n < c.1
    · simp [Memory.insert, Memory.read, hlt]
    · by_cases hk : c.1 = k
      · subst hk
        simp [Memory.insert, Memory.read, hlt, Ne.symm hc]
      · simp [Memory.insert, Memory.read, hlt, hk, ih']

/-- A read after a write: the byte at the index written, the old byte elsewhere. -/
@[simp] theorem Memory.read_write (m : Memory) (n k : Nat) (v : Byte) :
    Memory.read (Memory.write m n v) k = if n = k then v else Memory.read m k := by
  unfold Memory.write
  by_cases hv : v = unlisted
  · simp [hv, Memory.read_filter]
  · simp only [hv, if_false]
    rw [Memory.read_insert _ _ _ _ (by simp)]
    by_cases hk : n = k <;> simp [hk, Memory.read_filter]

theorem Memory.mem_insert (m : Memory) (n : Nat) (v : Byte) (c : Host.Cell) :
    c ∈ Memory.insert m n v ↔ c = (n, v) ∨ c ∈ m := by
  induction m with
  | nil => simp [Memory.insert]
  | cons d rest ih =>
    by_cases h : n < d.1
    · simp [Memory.insert, h]
    · simp [Memory.insert, h, ih]
      tauto

theorem Memory.pairwise_insert (m : Memory) (n : Nat) (v : Byte) (free : ∀ c ∈ m, c.1 ≠ n)
    (h : m.Pairwise (fun c d => c.1 < d.1)) : (Memory.insert m n v).Pairwise (fun c d => c.1 < d.1) := by
  induction m with
  | nil => simp [Memory.insert]
  | cons d rest ih =>
    have hd : d.1 ≠ n := free d (by simp)
    obtain ⟨h1, h2⟩ := List.pairwise_cons.mp h
    by_cases hlt : n < d.1
    · simp only [Memory.insert, hlt, if_true]
      refine List.pairwise_cons.mpr ⟨fun e he => ?_, h⟩
      rcases List.mem_cons.mp he with rfl | he
      · exact hlt
      · exact lt_trans hlt (h1 e he)
    · simp only [Memory.insert, hlt, if_false]
      refine List.pairwise_cons.mpr ⟨fun e he => ?_, ih (fun c hc => free c (by simp [hc])) h2⟩
      rcases (Memory.mem_insert rest n v e).mp he with rfl | he
      · simp only; omega
      · exact h1 e he

/-- A write keeps the canonical form. -/
theorem Memory.wf_write (m : Memory) (n : Nat) (v : Byte) (h : Memory.wf m) : Memory.wf (Memory.write m n v) := by
  have hf : Memory.wf (m.filter fun c => c.1 != n) :=
    ⟨h.1.filter _, fun c hc => h.2 c (List.mem_filter.mp hc).1⟩
  unfold Memory.write
  by_cases hv : v = unlisted
  · simpa [hv] using hf
  · simp only [hv, if_false]
    refine ⟨Memory.pairwise_insert _ _ _ (by simp) hf.1, fun c hc => ?_⟩
    rcases (Memory.mem_insert _ _ _ _).mp hc with rfl | hc
    · exact hv
    · exact hf.2 c hc

/-- A write below a bound keeps every listed index below it. -/
theorem Memory.below_write (m : Memory) (n k : Nat) (v : Byte) (hn : n < k) (h : Memory.below m k) :
    Memory.below (Memory.write m n v) k := by
  unfold Memory.write
  intro c hc
  by_cases hv : v = unlisted
  · simp only [hv, if_true] at hc
    exact h c (List.mem_filter.mp hc).1
  · simp only [hv, if_false] at hc
    rcases (Memory.mem_insert _ _ _ _).mp hc with rfl | hc
    · exact hn
    · exact h c (List.mem_filter.mp hc).1

/-- A block write keeps the canonical form. -/
theorem Memory.wf_writeBlock (bs : List Byte) : ∀ (m : Memory) (base : Nat),
    Memory.wf m → Memory.wf (Memory.writeBlock m base bs) := by
  induction bs with
  | nil => exact fun m _ h => h
  | cons b bs ih => exact fun m base h => ih _ _ (Memory.wf_write m base b h)

/-- A read after a block write: the block's byte inside it, the old byte outside. -/
theorem Memory.read_writeBlock (bs : List Byte) : ∀ (m : Memory) (base k : Nat),
    Memory.read (Memory.writeBlock m base bs) k =
      if base ≤ k ∧ k < base + bs.length then bs.getD (k - base) 0 else Memory.read m k := by
  induction bs with
  | nil =>
    intro m base k
    simp [Memory.writeBlock]
  | cons b bs ih =>
    intro m base k
    rw [Memory.writeBlock, ih, Memory.read_write]
    by_cases hk : base = k
    · subst hk
      simp
    · by_cases hin : base + 1 ≤ k ∧ k < base + 1 + bs.length
      · have h2 : base ≤ k ∧ k < base + (b :: bs).length := by simp only [List.length_cons]; omega
        have h3 : k - base = (k - (base + 1)) + 1 := by omega
        simp only [if_pos hin, if_pos h2, h3, List.getD_cons_succ]
      · have h2 : ¬ (base ≤ k ∧ k < base + (b :: bs).length) := by simp only [List.length_cons]; omega
        simp only [if_neg hin, if_neg h2, if_neg hk]

/-- The empty memory is canonical. -/
theorem Memory.wf_nil : Memory.wf [] := ⟨List.Pairwise.nil, by simp⟩

end Sys2Proof.Machine
end

