-- ==== Sys2Proof/Laws/State.lean ====
section
/-! SUPPORT. One lemma per field per named update of the state. -/

namespace Sys2Proof.Machine

/-! Costs -/

/-- The default table holds each byte's default entry. -/
@[simp] theorem defaultParams_costOf (op : Byte) : defaultParams.costOf op = defaultCostOf op := by
  simp [Params.costOf, defaultParams, defaultCost]

/-! setPc -/

@[simp] theorem State.setPc_pc (s : State) (v : Addr) : (s.setPc v).pc = v := rfl
@[simp] theorem State.setPc_a (s : State) (v : Addr) : (s.setPc v).a = s.a := rfl
@[simp] theorem State.setPc_x (s : State) (v : Addr) : (s.setPc v).x = s.x := rfl
@[simp] theorem State.setPc_y (s : State) (v : Addr) : (s.setPc v).y = s.y := rfl
@[simp] theorem State.setPc_s (s : State) (v : Addr) : (s.setPc v).s = s.s := rfl
@[simp] theorem State.setPc_t (s : State) (v : Addr) : (s.setPc v).t = s.t := rfl
@[simp] theorem State.setPc_p (s : State) (v : Addr) : (s.setPc v).p = s.p := rfl
@[simp] theorem State.setPc_budget (s : State) (v : Addr) : (s.setPc v).budget = s.budget := rfl
@[simp] theorem State.setPc_err (s : State) (v : Addr) : (s.setPc v).err = s.err := rfl
@[simp] theorem State.setPc_stop (s : State) (v : Addr) : (s.setPc v).stop = s.stop := rfl
@[simp] theorem State.setPc_flat (s : State) (v : Addr) : (s.setPc v).flat = s.flat := rfl
@[simp] theorem State.setPc_banks (s : State) (v : Addr) : (s.setPc v).banks = s.banks := rfl
@[simp] theorem State.setPc_bankCount (s : State) (v : Addr) : (s.setPc v).bankCount = s.bankCount := rfl
@[simp] theorem State.setPc_pt (s : State) (v : Addr) : (s.setPc v).pt = s.pt := rfl
@[simp] theorem State.setPc_params (s : State) (v : Addr) : (s.setPc v).params = s.params := rfl
@[simp] theorem State.setPc_draws (s : State) (v : Addr) : (s.setPc v).draws = s.draws := rfl

/-! setP -/

@[simp] theorem State.setP_pc (s : State) (v : Byte) : (s.setP v).pc = s.pc := rfl
@[simp] theorem State.setP_a (s : State) (v : Byte) : (s.setP v).a = s.a := rfl
@[simp] theorem State.setP_x (s : State) (v : Byte) : (s.setP v).x = s.x := rfl
@[simp] theorem State.setP_y (s : State) (v : Byte) : (s.setP v).y = s.y := rfl
@[simp] theorem State.setP_s (s : State) (v : Byte) : (s.setP v).s = s.s := rfl
@[simp] theorem State.setP_t (s : State) (v : Byte) : (s.setP v).t = s.t := rfl
@[simp] theorem State.setP_p (s : State) (v : Byte) : (s.setP v).p = v := rfl
@[simp] theorem State.setP_budget (s : State) (v : Byte) : (s.setP v).budget = s.budget := rfl
@[simp] theorem State.setP_err (s : State) (v : Byte) : (s.setP v).err = s.err := rfl
@[simp] theorem State.setP_stop (s : State) (v : Byte) : (s.setP v).stop = s.stop := rfl
@[simp] theorem State.setP_flat (s : State) (v : Byte) : (s.setP v).flat = s.flat := rfl
@[simp] theorem State.setP_banks (s : State) (v : Byte) : (s.setP v).banks = s.banks := rfl
@[simp] theorem State.setP_bankCount (s : State) (v : Byte) : (s.setP v).bankCount = s.bankCount := rfl
@[simp] theorem State.setP_pt (s : State) (v : Byte) : (s.setP v).pt = s.pt := rfl
@[simp] theorem State.setP_params (s : State) (v : Byte) : (s.setP v).params = s.params := rfl
@[simp] theorem State.setP_draws (s : State) (v : Byte) : (s.setP v).draws = s.draws := rfl

/-! setErr -/

@[simp] theorem State.setErr_pc (s : State) (e : ErrState) : (s.setErr e).pc = s.pc := rfl
@[simp] theorem State.setErr_a (s : State) (e : ErrState) : (s.setErr e).a = s.a := rfl
@[simp] theorem State.setErr_x (s : State) (e : ErrState) : (s.setErr e).x = s.x := rfl
@[simp] theorem State.setErr_y (s : State) (e : ErrState) : (s.setErr e).y = s.y := rfl
@[simp] theorem State.setErr_s (s : State) (e : ErrState) : (s.setErr e).s = s.s := rfl
@[simp] theorem State.setErr_t (s : State) (e : ErrState) : (s.setErr e).t = s.t := rfl
@[simp] theorem State.setErr_p (s : State) (e : ErrState) : (s.setErr e).p = s.p := rfl
@[simp] theorem State.setErr_budget (s : State) (e : ErrState) : (s.setErr e).budget = s.budget := rfl
@[simp] theorem State.setErr_err (s : State) (e : ErrState) : (s.setErr e).err = e := rfl
@[simp] theorem State.setErr_stop (s : State) (e : ErrState) : (s.setErr e).stop = s.stop := rfl
@[simp] theorem State.setErr_flat (s : State) (e : ErrState) : (s.setErr e).flat = s.flat := rfl
@[simp] theorem State.setErr_banks (s : State) (e : ErrState) : (s.setErr e).banks = s.banks := rfl
@[simp] theorem State.setErr_bankCount (s : State) (e : ErrState) : (s.setErr e).bankCount = s.bankCount := rfl
@[simp] theorem State.setErr_pt (s : State) (e : ErrState) : (s.setErr e).pt = s.pt := rfl
@[simp] theorem State.setErr_params (s : State) (e : ErrState) : (s.setErr e).params = s.params := rfl
@[simp] theorem State.setErr_draws (s : State) (e : ErrState) : (s.setErr e).draws = s.draws := rfl

/-! setFlag -/

@[simp] theorem State.setFlag_pc (s : State) (f : Flag) (b : Bool) : (s.setFlag f b).pc = s.pc := rfl
@[simp] theorem State.setFlag_a (s : State) (f : Flag) (b : Bool) : (s.setFlag f b).a = s.a := rfl
@[simp] theorem State.setFlag_x (s : State) (f : Flag) (b : Bool) : (s.setFlag f b).x = s.x := rfl
@[simp] theorem State.setFlag_y (s : State) (f : Flag) (b : Bool) : (s.setFlag f b).y = s.y := rfl
@[simp] theorem State.setFlag_s (s : State) (f : Flag) (b : Bool) : (s.setFlag f b).s = s.s := rfl
@[simp] theorem State.setFlag_t (s : State) (f : Flag) (b : Bool) : (s.setFlag f b).t = s.t := rfl
@[simp] theorem State.setFlag_p (s : State) (f : Flag) (b : Bool) : (s.setFlag f b).p = withFlag s.p f b := rfl
@[simp] theorem State.setFlag_budget (s : State) (f : Flag) (b : Bool) : (s.setFlag f b).budget = s.budget := rfl
@[simp] theorem State.setFlag_err (s : State) (f : Flag) (b : Bool) : (s.setFlag f b).err = s.err := rfl
@[simp] theorem State.setFlag_stop (s : State) (f : Flag) (b : Bool) : (s.setFlag f b).stop = s.stop := rfl
@[simp] theorem State.setFlag_flat (s : State) (f : Flag) (b : Bool) : (s.setFlag f b).flat = s.flat := rfl
@[simp] theorem State.setFlag_banks (s : State) (f : Flag) (b : Bool) : (s.setFlag f b).banks = s.banks := rfl
@[simp] theorem State.setFlag_bankCount (s : State) (f : Flag) (b : Bool) : (s.setFlag f b).bankCount = s.bankCount := rfl
@[simp] theorem State.setFlag_pt (s : State) (f : Flag) (b : Bool) : (s.setFlag f b).pt = s.pt := rfl
@[simp] theorem State.setFlag_params (s : State) (f : Flag) (b : Bool) : (s.setFlag f b).params = s.params := rfl
@[simp] theorem State.setFlag_draws (s : State) (f : Flag) (b : Bool) : (s.setFlag f b).draws = s.draws := rfl

/-! setReg, any register -/

@[simp] theorem State.setReg_pc (s : State) (r : Reg) (v : Byte) : (s.setReg r v).pc = s.pc := by cases r <;> rfl
@[simp] theorem State.setReg_t (s : State) (r : Reg) (v : Byte) : (s.setReg r v).t = s.t := by cases r <;> rfl
@[simp] theorem State.setReg_p (s : State) (r : Reg) (v : Byte) : (s.setReg r v).p = s.p := by cases r <;> rfl
@[simp] theorem State.setReg_budget (s : State) (r : Reg) (v : Byte) : (s.setReg r v).budget = s.budget := by cases r <;> rfl
@[simp] theorem State.setReg_err (s : State) (r : Reg) (v : Byte) : (s.setReg r v).err = s.err := by cases r <;> rfl
@[simp] theorem State.setReg_stop (s : State) (r : Reg) (v : Byte) : (s.setReg r v).stop = s.stop := by cases r <;> rfl
@[simp] theorem State.setReg_flat (s : State) (r : Reg) (v : Byte) : (s.setReg r v).flat = s.flat := by cases r <;> rfl
@[simp] theorem State.setReg_banks (s : State) (r : Reg) (v : Byte) : (s.setReg r v).banks = s.banks := by cases r <;> rfl
@[simp] theorem State.setReg_bankCount (s : State) (r : Reg) (v : Byte) : (s.setReg r v).bankCount = s.bankCount := by cases r <;> rfl
@[simp] theorem State.setReg_pt (s : State) (r : Reg) (v : Byte) : (s.setReg r v).pt = s.pt := by cases r <;> rfl
@[simp] theorem State.setReg_params (s : State) (r : Reg) (v : Byte) : (s.setReg r v).params = s.params := by cases r <;> rfl
@[simp] theorem State.setReg_draws (s : State) (r : Reg) (v : Byte) : (s.setReg r v).draws = s.draws := by cases r <;> rfl

/-! setReg, each register -/

@[simp] theorem State.setReg_a_a (s : State) (v : Byte) : (s.setReg .a v).a = v := rfl
@[simp] theorem State.setReg_a_x (s : State) (v : Byte) : (s.setReg .a v).x = s.x := rfl
@[simp] theorem State.setReg_a_y (s : State) (v : Byte) : (s.setReg .a v).y = s.y := rfl
@[simp] theorem State.setReg_a_s (s : State) (v : Byte) : (s.setReg .a v).s = s.s := rfl
@[simp] theorem State.setReg_x_a (s : State) (v : Byte) : (s.setReg .x v).a = s.a := rfl
@[simp] theorem State.setReg_x_x (s : State) (v : Byte) : (s.setReg .x v).x = v := rfl
@[simp] theorem State.setReg_x_y (s : State) (v : Byte) : (s.setReg .x v).y = s.y := rfl
@[simp] theorem State.setReg_x_s (s : State) (v : Byte) : (s.setReg .x v).s = s.s := rfl
@[simp] theorem State.setReg_y_a (s : State) (v : Byte) : (s.setReg .y v).a = s.a := rfl
@[simp] theorem State.setReg_y_x (s : State) (v : Byte) : (s.setReg .y v).x = s.x := rfl
@[simp] theorem State.setReg_y_y (s : State) (v : Byte) : (s.setReg .y v).y = v := rfl
@[simp] theorem State.setReg_y_s (s : State) (v : Byte) : (s.setReg .y v).s = s.s := rfl
@[simp] theorem State.setReg_s_a (s : State) (v : Byte) : (s.setReg .s v).a = s.a := rfl
@[simp] theorem State.setReg_s_x (s : State) (v : Byte) : (s.setReg .s v).x = s.x := rfl
@[simp] theorem State.setReg_s_y (s : State) (v : Byte) : (s.setReg .s v).y = s.y := rfl
@[simp] theorem State.setReg_s_s (s : State) (v : Byte) : (s.setReg .s v).s = v := rfl

/-! setAlu -/

@[simp] theorem State.setAlu_pc (s : State) (r : Reg) (out : AluOut) : (s.setAlu r out).pc = s.pc := by cases r <;> rfl
@[simp] theorem State.setAlu_t (s : State) (r : Reg) (out : AluOut) : (s.setAlu r out).t = s.t := by cases r <;> rfl
@[simp] theorem State.setAlu_p (s : State) (r : Reg) (out : AluOut) : (s.setAlu r out).p = out.2 := by cases r <;> rfl
@[simp] theorem State.setAlu_budget (s : State) (r : Reg) (out : AluOut) : (s.setAlu r out).budget = s.budget := by cases r <;> rfl
@[simp] theorem State.setAlu_err (s : State) (r : Reg) (out : AluOut) : (s.setAlu r out).err = s.err := by cases r <;> rfl
@[simp] theorem State.setAlu_stop (s : State) (r : Reg) (out : AluOut) : (s.setAlu r out).stop = s.stop := by cases r <;> rfl
@[simp] theorem State.setAlu_flat (s : State) (r : Reg) (out : AluOut) : (s.setAlu r out).flat = s.flat := by cases r <;> rfl
@[simp] theorem State.setAlu_banks (s : State) (r : Reg) (out : AluOut) : (s.setAlu r out).banks = s.banks := by cases r <;> rfl
@[simp] theorem State.setAlu_bankCount (s : State) (r : Reg) (out : AluOut) : (s.setAlu r out).bankCount = s.bankCount := by cases r <;> rfl
@[simp] theorem State.setAlu_pt (s : State) (r : Reg) (out : AluOut) : (s.setAlu r out).pt = s.pt := by cases r <;> rfl
@[simp] theorem State.setAlu_params (s : State) (r : Reg) (out : AluOut) : (s.setAlu r out).params = s.params := by cases r <;> rfl
@[simp] theorem State.setAlu_draws (s : State) (r : Reg) (out : AluOut) : (s.setAlu r out).draws = s.draws := by cases r <;> rfl
@[simp] theorem State.setAlu_a_a (s : State) (out : AluOut) : (s.setAlu .a out).a = out.1 := rfl
@[simp] theorem State.setAlu_a_x (s : State) (out : AluOut) : (s.setAlu .a out).x = s.x := rfl
@[simp] theorem State.setAlu_a_y (s : State) (out : AluOut) : (s.setAlu .a out).y = s.y := rfl
@[simp] theorem State.setAlu_a_s (s : State) (out : AluOut) : (s.setAlu .a out).s = s.s := rfl
@[simp] theorem State.setAlu_x_a (s : State) (out : AluOut) : (s.setAlu .x out).a = s.a := rfl
@[simp] theorem State.setAlu_x_x (s : State) (out : AluOut) : (s.setAlu .x out).x = out.1 := rfl
@[simp] theorem State.setAlu_x_y (s : State) (out : AluOut) : (s.setAlu .x out).y = s.y := rfl
@[simp] theorem State.setAlu_x_s (s : State) (out : AluOut) : (s.setAlu .x out).s = s.s := rfl
@[simp] theorem State.setAlu_y_a (s : State) (out : AluOut) : (s.setAlu .y out).a = s.a := rfl
@[simp] theorem State.setAlu_y_x (s : State) (out : AluOut) : (s.setAlu .y out).x = s.x := rfl
@[simp] theorem State.setAlu_y_y (s : State) (out : AluOut) : (s.setAlu .y out).y = out.1 := rfl
@[simp] theorem State.setAlu_y_s (s : State) (out : AluOut) : (s.setAlu .y out).s = s.s := rfl
@[simp] theorem State.setAlu_s_a (s : State) (out : AluOut) : (s.setAlu .s out).a = s.a := rfl
@[simp] theorem State.setAlu_s_x (s : State) (out : AluOut) : (s.setAlu .s out).x = s.x := rfl
@[simp] theorem State.setAlu_s_y (s : State) (out : AluOut) : (s.setAlu .s out).y = s.y := rfl
@[simp] theorem State.setAlu_s_s (s : State) (out : AluOut) : (s.setAlu .s out).s = out.1 := rfl

/-! writeCell -/

@[simp] theorem State.writeCell_pc (s : State) (c : CellRef) (v : Byte) : (s.writeCell c v).pc = s.pc := by cases c <;> rfl
@[simp] theorem State.writeCell_a (s : State) (c : CellRef) (v : Byte) : (s.writeCell c v).a = s.a := by cases c <;> rfl
@[simp] theorem State.writeCell_x (s : State) (c : CellRef) (v : Byte) : (s.writeCell c v).x = s.x := by cases c <;> rfl
@[simp] theorem State.writeCell_y (s : State) (c : CellRef) (v : Byte) : (s.writeCell c v).y = s.y := by cases c <;> rfl
@[simp] theorem State.writeCell_s (s : State) (c : CellRef) (v : Byte) : (s.writeCell c v).s = s.s := by cases c <;> rfl
@[simp] theorem State.writeCell_t (s : State) (c : CellRef) (v : Byte) : (s.writeCell c v).t = s.t := by cases c <;> rfl
@[simp] theorem State.writeCell_p (s : State) (c : CellRef) (v : Byte) : (s.writeCell c v).p = s.p := by cases c <;> rfl
@[simp] theorem State.writeCell_budget (s : State) (c : CellRef) (v : Byte) : (s.writeCell c v).budget = s.budget := by cases c <;> rfl
@[simp] theorem State.writeCell_err (s : State) (c : CellRef) (v : Byte) : (s.writeCell c v).err = s.err := by cases c <;> rfl
@[simp] theorem State.writeCell_stop (s : State) (c : CellRef) (v : Byte) : (s.writeCell c v).stop = s.stop := by cases c <;> rfl
@[simp] theorem State.writeCell_bankCount (s : State) (c : CellRef) (v : Byte) : (s.writeCell c v).bankCount = s.bankCount := by cases c <;> rfl
@[simp] theorem State.writeCell_pt (s : State) (c : CellRef) (v : Byte) : (s.writeCell c v).pt = s.pt := by cases c <;> rfl
@[simp] theorem State.writeCell_params (s : State) (c : CellRef) (v : Byte) : (s.writeCell c v).params = s.params := by cases c <;> rfl
@[simp] theorem State.writeCell_draws (s : State) (c : CellRef) (v : Byte) : (s.writeCell c v).draws = s.draws := by cases c <;> rfl

/-! debit, advance -/

@[simp] theorem debit_pc (c : Nat) (s : State) : (debit c s).pc = s.pc := rfl
@[simp] theorem debit_a (c : Nat) (s : State) : (debit c s).a = s.a := rfl
@[simp] theorem debit_x (c : Nat) (s : State) : (debit c s).x = s.x := rfl
@[simp] theorem debit_y (c : Nat) (s : State) : (debit c s).y = s.y := rfl
@[simp] theorem debit_s (c : Nat) (s : State) : (debit c s).s = s.s := rfl
@[simp] theorem debit_t (c : Nat) (s : State) : (debit c s).t = s.t := rfl
@[simp] theorem debit_p (c : Nat) (s : State) : (debit c s).p = s.p := rfl
@[simp] theorem debit_budget (c : Nat) (s : State) : (debit c s).budget = s.budget - min s.budget c := rfl
@[simp] theorem debit_err (c : Nat) (s : State) : (debit c s).err = s.err := rfl
@[simp] theorem debit_stop (c : Nat) (s : State) : (debit c s).stop = s.stop := rfl
@[simp] theorem debit_flat (c : Nat) (s : State) : (debit c s).flat = s.flat := rfl
@[simp] theorem debit_banks (c : Nat) (s : State) : (debit c s).banks = s.banks := rfl
@[simp] theorem debit_bankCount (c : Nat) (s : State) : (debit c s).bankCount = s.bankCount := rfl
@[simp] theorem debit_pt (c : Nat) (s : State) : (debit c s).pt = s.pt := rfl
@[simp] theorem debit_params (c : Nat) (s : State) : (debit c s).params = s.params := rfl
@[simp] theorem debit_draws (c : Nat) (s : State) : (debit c s).draws = s.draws := rfl
@[simp] theorem advance_pc (n : Nat) (s : State) : (advance n s).pc = s.pc + BitVec.ofNat 16 n := rfl
@[simp] theorem advance_a (n : Nat) (s : State) : (advance n s).a = s.a := rfl
@[simp] theorem advance_x (n : Nat) (s : State) : (advance n s).x = s.x := rfl
@[simp] theorem advance_y (n : Nat) (s : State) : (advance n s).y = s.y := rfl
@[simp] theorem advance_s (n : Nat) (s : State) : (advance n s).s = s.s := rfl
@[simp] theorem advance_t (n : Nat) (s : State) : (advance n s).t = s.t := rfl
@[simp] theorem advance_p (n : Nat) (s : State) : (advance n s).p = s.p := rfl
@[simp] theorem advance_budget (n : Nat) (s : State) : (advance n s).budget = s.budget := rfl
@[simp] theorem advance_err (n : Nat) (s : State) : (advance n s).err = s.err := rfl
@[simp] theorem advance_stop (n : Nat) (s : State) : (advance n s).stop = s.stop := rfl
@[simp] theorem advance_flat (n : Nat) (s : State) : (advance n s).flat = s.flat := rfl
@[simp] theorem advance_banks (n : Nat) (s : State) : (advance n s).banks = s.banks := rfl
@[simp] theorem advance_bankCount (n : Nat) (s : State) : (advance n s).bankCount = s.bankCount := rfl
@[simp] theorem advance_pt (n : Nat) (s : State) : (advance n s).pt = s.pt := rfl
@[simp] theorem advance_params (n : Nat) (s : State) : (advance n s).params = s.params := rfl
@[simp] theorem advance_draws (n : Nat) (s : State) : (advance n s).draws = s.draws := rfl

/-! skipOperand -/

@[simp] theorem skipOperand_pc (m : Mode) (s : State) : (skipOperand m s).pc = s.pc + BitVec.ofNat 16 m.operandBytes := rfl
@[simp] theorem skipOperand_a (m : Mode) (s : State) : (skipOperand m s).a = s.a := rfl
@[simp] theorem skipOperand_x (m : Mode) (s : State) : (skipOperand m s).x = s.x := rfl
@[simp] theorem skipOperand_y (m : Mode) (s : State) : (skipOperand m s).y = s.y := rfl
@[simp] theorem skipOperand_s (m : Mode) (s : State) : (skipOperand m s).s = s.s := rfl
@[simp] theorem skipOperand_t (m : Mode) (s : State) : (skipOperand m s).t = s.t := rfl
@[simp] theorem skipOperand_p (m : Mode) (s : State) : (skipOperand m s).p = s.p := rfl
@[simp] theorem skipOperand_budget (m : Mode) (s : State) : (skipOperand m s).budget = s.budget := rfl
@[simp] theorem skipOperand_err (m : Mode) (s : State) : (skipOperand m s).err = s.err := rfl
@[simp] theorem skipOperand_stop (m : Mode) (s : State) : (skipOperand m s).stop = s.stop := rfl
@[simp] theorem skipOperand_flat (m : Mode) (s : State) : (skipOperand m s).flat = s.flat := rfl
@[simp] theorem skipOperand_banks (m : Mode) (s : State) : (skipOperand m s).banks = s.banks := rfl
@[simp] theorem skipOperand_bankCount (m : Mode) (s : State) : (skipOperand m s).bankCount = s.bankCount := rfl
@[simp] theorem skipOperand_pt (m : Mode) (s : State) : (skipOperand m s).pt = s.pt := rfl
@[simp] theorem skipOperand_params (m : Mode) (s : State) : (skipOperand m s).params = s.params := rfl
@[simp] theorem skipOperand_draws (m : Mode) (s : State) : (skipOperand m s).draws = s.draws := rfl

/-! beginStep, endStep -/

@[simp] theorem beginStep_pc (s : State) : (beginStep s).pc = s.pc + 1 := rfl
@[simp] theorem beginStep_a (s : State) : (beginStep s).a = s.a := rfl
@[simp] theorem beginStep_x (s : State) : (beginStep s).x = s.x := rfl
@[simp] theorem beginStep_y (s : State) : (beginStep s).y = s.y := rfl
@[simp] theorem beginStep_s (s : State) : (beginStep s).s = s.s := rfl
@[simp] theorem beginStep_t (s : State) : (beginStep s).t = s.t := rfl
@[simp] theorem beginStep_p (s : State) : (beginStep s).p = s.p := rfl
@[simp] theorem beginStep_budget (s : State) : (beginStep s).budget = s.budget - min s.budget (s.cycleCost (opcodeAt s)) := rfl
@[simp] theorem beginStep_err (s : State) : (beginStep s).err = s.err := rfl
@[simp] theorem beginStep_stop (s : State) : (beginStep s).stop = s.stop := rfl
@[simp] theorem beginStep_flat (s : State) : (beginStep s).flat = s.flat := rfl
@[simp] theorem beginStep_banks (s : State) : (beginStep s).banks = s.banks := rfl
@[simp] theorem beginStep_bankCount (s : State) : (beginStep s).bankCount = s.bankCount := rfl
@[simp] theorem beginStep_pt (s : State) : (beginStep s).pt = s.pt := rfl
@[simp] theorem beginStep_params (s : State) : (beginStep s).params = s.params := rfl
@[simp] theorem beginStep_draws (s : State) : (beginStep s).draws = s.draws := rfl
@[simp] theorem endStep_pc (s : State) : (endStep s).pc = s.pc := rfl
@[simp] theorem endStep_a (s : State) : (endStep s).a = s.a := rfl
@[simp] theorem endStep_x (s : State) : (endStep s).x = s.x := rfl
@[simp] theorem endStep_y (s : State) : (endStep s).y = s.y := rfl
@[simp] theorem endStep_s (s : State) : (endStep s).s = s.s := rfl
@[simp] theorem endStep_t (s : State) : (endStep s).t = Config.freeScratch s.draws := rfl
@[simp] theorem endStep_p (s : State) : (endStep s).p = s.p := rfl
@[simp] theorem endStep_budget (s : State) : (endStep s).budget = s.budget := rfl
@[simp] theorem endStep_err (s : State) : (endStep s).err = s.err := rfl
@[simp] theorem endStep_stop (s : State) : (endStep s).stop = s.stop := rfl
@[simp] theorem endStep_flat (s : State) : (endStep s).flat = s.flat := rfl
@[simp] theorem endStep_banks (s : State) : (endStep s).banks = s.banks := rfl
@[simp] theorem endStep_bankCount (s : State) : (endStep s).bankCount = s.bankCount := rfl
@[simp] theorem endStep_pt (s : State) : (endStep s).pt = s.pt := rfl
@[simp] theorem endStep_params (s : State) : (endStep s).params = s.params := rfl
@[simp] theorem endStep_draws (s : State) : (endStep s).draws = s.draws + 1 := rfl

/-! Reading the register just written, and the others. -/

theorem State.reg_setReg (s : State) (r r' : Reg) (v : Byte) :
    (s.setReg r v).reg r' = if r = r' then v else s.reg r' := by cases r <;> cases r' <;> rfl

@[simp] theorem State.reg_setPc (s : State) (pc : Addr) (r : Reg) : (s.setPc pc).reg r = s.reg r := by cases r <;> rfl

@[simp] theorem State.reg_setP (s : State) (p : Byte) (r : Reg) : (s.setP p).reg r = s.reg r := by cases r <;> rfl

end Sys2Proof.Machine
end

