-- ==== Sys2Proof/Laws/Ops.lean ====
section
/-! SUPPORT. One lemma per shared operation: what it can do and what it leaves as it was. -/

namespace Sys2Proof.Machine

/-! Results in sequence. -/

@[simp] theorem andThen_next (s : State) (f : State → Result) : andThen (.next s) f = f s := rfl
@[simp] theorem andThen_fault (e : Fault) (f : State → Result) : andThen (.fault e) f = .fault e := rfl
@[simp] theorem andThen_refused (e : Refusal) (f : State → Result) : andThen (.refused e) f = .refused e := rfl

/-- A sequence answers a next state when both parts do. -/
theorem andThen_eq_next {r : Result} {f : State → Result} {t : State} :
    andThen r f = .next t ↔ ∃ s, r = .next s ∧ f s = .next t := by
  cases r <;> simp

/-! Cells. -/

@[simp] theorem State.cellOf_writeCell (s : State) (c : CellRef) (v : Byte) (a : Addr) :
    (s.writeCell c v).cellOf a = s.cellOf a := by simp [State.cellOf]

/-- A cell read after a cell write. -/
@[simp] theorem State.readCell_writeCell (s : State) (c d : CellRef) (v : Byte) :
    (s.writeCell c v).readCell d = if c = d then v else s.readCell d := by
  cases c <;> cases d <;> simp [State.writeCell, State.readCell]

/-- Writing one byte to a list of cells changes those cells and nothing else. -/
theorem State.readCell_writeCells (cs : List CellRef) (v : Byte) (d : CellRef) : ∀ s : State,
    (cs.foldl (fun t c => t.writeCell c v) s).readCell d = if d ∈ cs then v else s.readCell d := by
  induction cs with
  | nil => simp
  | cons c cs ih =>
    intro s
    simp only [List.foldl_cons, ih, State.readCell_writeCell, List.mem_cons]
    by_cases h1 : d ∈ cs
    · simp [h1]
    · by_cases h2 : c = d
      · simp [h2]
      · simp [h1, h2, Ne.symm h2]

/-- What writing cells keeps: everything but the two storages. -/
theorem State.writeCells_keeps (cs : List CellRef) (v : Byte) : ∀ s : State,
    ∃ flat banks, cs.foldl (fun t c => t.writeCell c v) s = { s with flat := flat, banks := banks } := by
  induction cs with
  | nil => exact fun s => ⟨s.flat, s.banks, rfl⟩
  | cons c cs ih =>
    intro s
    obtain ⟨f, b, h⟩ := ih (s.writeCell c v)
    refine ⟨f, b, ?_⟩
    rw [List.foldl_cons, h]
    cases c <;> rfl

/-- A store writes the two storages only. -/
theorem memStore_keeps (s : State) (a : Addr) (v : Byte) :
    ∃ flat banks, memStore s a v = { s with flat := flat, banks := banks } :=
  State.writeCells_keeps _ v s

@[simp] theorem memStore_pc (s : State) (a : Addr) (v : Byte) : (memStore s a v).pc = s.pc := by
  obtain ⟨_, _, h⟩ := memStore_keeps s a v; rw [h]
@[simp] theorem memStore_a (s : State) (a : Addr) (v : Byte) : (memStore s a v).a = s.a := by
  obtain ⟨_, _, h⟩ := memStore_keeps s a v; rw [h]
@[simp] theorem memStore_x (s : State) (a : Addr) (v : Byte) : (memStore s a v).x = s.x := by
  obtain ⟨_, _, h⟩ := memStore_keeps s a v; rw [h]
@[simp] theorem memStore_y (s : State) (a : Addr) (v : Byte) : (memStore s a v).y = s.y := by
  obtain ⟨_, _, h⟩ := memStore_keeps s a v; rw [h]
@[simp] theorem memStore_s (s : State) (a : Addr) (v : Byte) : (memStore s a v).s = s.s := by
  obtain ⟨_, _, h⟩ := memStore_keeps s a v; rw [h]
@[simp] theorem memStore_t (s : State) (a : Addr) (v : Byte) : (memStore s a v).t = s.t := by
  obtain ⟨_, _, h⟩ := memStore_keeps s a v; rw [h]
@[simp] theorem memStore_p (s : State) (a : Addr) (v : Byte) : (memStore s a v).p = s.p := by
  obtain ⟨_, _, h⟩ := memStore_keeps s a v; rw [h]
@[simp] theorem memStore_budget (s : State) (a : Addr) (v : Byte) : (memStore s a v).budget = s.budget := by
  obtain ⟨_, _, h⟩ := memStore_keeps s a v; rw [h]
@[simp] theorem memStore_err (s : State) (a : Addr) (v : Byte) : (memStore s a v).err = s.err := by
  obtain ⟨_, _, h⟩ := memStore_keeps s a v; rw [h]
@[simp] theorem memStore_stop (s : State) (a : Addr) (v : Byte) : (memStore s a v).stop = s.stop := by
  obtain ⟨_, _, h⟩ := memStore_keeps s a v; rw [h]
@[simp] theorem memStore_bankCount (s : State) (a : Addr) (v : Byte) : (memStore s a v).bankCount = s.bankCount := by
  obtain ⟨_, _, h⟩ := memStore_keeps s a v; rw [h]
@[simp] theorem memStore_pt (s : State) (a : Addr) (v : Byte) : (memStore s a v).pt = s.pt := by
  obtain ⟨_, _, h⟩ := memStore_keeps s a v; rw [h]
@[simp] theorem memStore_params (s : State) (a : Addr) (v : Byte) : (memStore s a v).params = s.params := by
  obtain ⟨_, _, h⟩ := memStore_keeps s a v; rw [h]
@[simp] theorem memStore_draws (s : State) (a : Addr) (v : Byte) : (memStore s a v).draws = s.draws := by
  obtain ⟨_, _, h⟩ := memStore_keeps s a v; rw [h]

@[simp] theorem State.cellOf_memStore (s : State) (a b : Addr) (v : Byte) :
    (memStore s a v).cellOf b = s.cellOf b := by simp [State.cellOf]

@[simp] theorem State.storedCells_memStore (s : State) (a b : Addr) (v : Byte) :
    (memStore s a v).storedCells b = s.storedCells b := by simp [State.storedCells]

@[simp] theorem State.writeProtected_memStore (s : State) (a b : Addr) (v : Byte) :
    (memStore s a v).writeProtected b = s.writeProtected b := by simp [State.writeProtected]

/-- A cell read after a store: the byte in the stored cells, the old byte in every other. -/
@[simp] theorem State.readCell_memStore (s : State) (a : Addr) (v : Byte) (c : CellRef) :
    (memStore s a v).readCell c = if c ∈ s.storedCells a then v else s.readCell c :=
  State.readCell_writeCells _ v c s

/-- An address read after a store. -/
theorem memRead_memStore (s : State) (a b : Addr) (v : Byte) :
    memRead (memStore s a v) b = if s.cellOf b ∈ s.storedCells a then v else memRead s b := by
  simp [memRead]

/-- The address stored to reads as the byte stored. -/
@[simp] theorem memRead_memStore_self (s : State) (a : Addr) (v : Byte) : memRead (memStore s a v) a = v := by
  simp [memRead_memStore, State.storedCells]

/-! Reads depend on the mapper only. -/

/-- The two states have the same mapper and parameters. -/
def SameMapper (s t : State) : Prop :=
  t.flat = s.flat ∧ t.banks = s.banks ∧ t.bankCount = s.bankCount ∧ t.pt = s.pt ∧ t.params = s.params

theorem SameMapper.cellOf {s t : State} (h : SameMapper s t) (a : Addr) : t.cellOf a = s.cellOf a := by
  simp [State.cellOf, h.2.2.2.1]

theorem SameMapper.memRead {s t : State} (h : SameMapper s t) (a : Addr) : memRead t a = memRead s a := by
  unfold Sys2Proof.Machine.memRead
  rw [h.cellOf]
  cases s.cellOf a <;> simp [State.readCell, h.1, h.2.1]

@[simp] theorem memRead_setPc (s : State) (v a : Addr) : memRead (s.setPc v) a = memRead s a := rfl
@[simp] theorem memRead_setP (s : State) (p : Byte) (a : Addr) : memRead (s.setP p) a = memRead s a := rfl
@[simp] theorem memRead_setErr (s : State) (e : ErrState) (a : Addr) : memRead (s.setErr e) a = memRead s a := rfl
@[simp] theorem memRead_setFlag (s : State) (f : Flag) (b : Bool) (a : Addr) :
    memRead (s.setFlag f b) a = memRead s a := rfl
@[simp] theorem memRead_setReg (s : State) (r : Reg) (v : Byte) (a : Addr) :
    memRead (s.setReg r v) a = memRead s a := by cases r <;> rfl
@[simp] theorem memRead_setAlu (s : State) (r : Reg) (out : AluOut) (a : Addr) :
    memRead (s.setAlu r out) a = memRead s a := by cases r <;> rfl
@[simp] theorem memRead_advance (n : Nat) (s : State) (a : Addr) : memRead (advance n s) a = memRead s a := rfl
@[simp] theorem memRead_skipOperand (m : Mode) (s : State) (a : Addr) : memRead (skipOperand m s) a = memRead s a := rfl
@[simp] theorem memRead_beginStep (s : State) (a : Addr) : memRead (beginStep s) a = memRead s a := rfl
@[simp] theorem memRead_endStep (s : State) (a : Addr) : memRead (endStep s) a = memRead s a := rfl
@[simp] theorem writeProtected_setReg (s : State) (r : Reg) (v : Byte) (a : Addr) :
    (s.setReg r v).writeProtected a = s.writeProtected a := by cases r <;> rfl
@[simp] theorem cellOf_setReg (s : State) (r : Reg) (v : Byte) (a : Addr) :
    (s.setReg r v).cellOf a = s.cellOf a := by cases r <;> rfl
@[simp] theorem storedCells_setReg (s : State) (r : Reg) (v : Byte) (a : Addr) :
    (s.setReg r v).storedCells a = s.storedCells a := by cases r <;> rfl

/-! Stores turned away. -/

/-- `MemWrite` faults on a protected address and stores on every other. -/
theorem memWrite_eq (s : State) (a : Addr) (v : Byte) :
    memWrite s a v = if s.writeProtected a then .fault (.writeProtect a) else .next (memStore s a v) := rfl

theorem memWrite_next {s : State} {a : Addr} {v : Byte} (h : s.writeProtected a = false) :
    memWrite s a v = .next (memStore s a v) := by simp [memWrite, h]

/-- With RO_ENFORCE off nothing is protected. -/
theorem writeProtected_off {s : State} (h : s.params.roEnforce = false) (a : Addr) : s.writeProtected a = false := by
  simp [State.writeProtected, h]

/-! The stack. -/

theorem stackAddr_toNat (sp : Byte) : (stackAddr sp).toNat = 0x0100 + sp.toNat := by
  have := sp.isLt
  simp [stackAddr, stackBase, zext, BitVec.toNat_add, BitVec.toNat_setWidth]
  omega

/-- The stack page is never guarded, under any configuration (44_single_byte R220, 60_exceptions R296). -/
theorem stackAddr_not_guarded (p : Params) (sp : Byte) : p.guarded (stackAddr sp) = false := by
  have hs := sp.isLt
  have hp := p.stackUnguarded
  simp only [BitVec.lt_def, BitVec.le_def] at hp
  simp only [Params.guarded, prgBase, BitVec.le_def, stackAddr_toNat]
  simp at hp ⊢
  omega

@[simp] theorem stack_unprotected (s : State) (sp : Byte) : s.writeProtected (stackAddr sp) = false := by
  simp [State.writeProtected, stackAddr_not_guarded]

/-- The state after a push: the byte in the stack cell and its images, S one less. -/
def pushed (s : State) (v : Byte) : State := (memStore s (stackAddr s.s) v).setReg .s (s.s - 1)

/-- A push always answers a next state, in every state and under every configuration. -/
theorem push_eq (s : State) (v : Byte) : push s v = .next (pushed s v) := by
  simp [push, memWrite_next (stack_unprotected s s.s), pushed]

/-- A push writes the two storages and the pointer only. -/
theorem pushed_keeps (s : State) (v : Byte) :
    ∃ flat banks, pushed s v = { s with s := s.s - 1, flat := flat, banks := banks } := by
  obtain ⟨f, b, h⟩ := memStore_keeps s (stackAddr s.s) v
  exact ⟨f, b, by rw [pushed, h]; rfl⟩

@[simp] theorem pushed_pc (s : State) (v : Byte) : (pushed s v).pc = s.pc := by
  obtain ⟨_, _, h⟩ := pushed_keeps s v; rw [h]
@[simp] theorem pushed_a (s : State) (v : Byte) : (pushed s v).a = s.a := by
  obtain ⟨_, _, h⟩ := pushed_keeps s v; rw [h]
@[simp] theorem pushed_x (s : State) (v : Byte) : (pushed s v).x = s.x := by
  obtain ⟨_, _, h⟩ := pushed_keeps s v; rw [h]
@[simp] theorem pushed_y (s : State) (v : Byte) : (pushed s v).y = s.y := by
  obtain ⟨_, _, h⟩ := pushed_keeps s v; rw [h]
@[simp] theorem pushed_s (s : State) (v : Byte) : (pushed s v).s = s.s - 1 := by
  obtain ⟨_, _, h⟩ := pushed_keeps s v; rw [h]
@[simp] theorem pushed_t (s : State) (v : Byte) : (pushed s v).t = s.t := by
  obtain ⟨_, _, h⟩ := pushed_keeps s v; rw [h]
@[simp] theorem pushed_p (s : State) (v : Byte) : (pushed s v).p = s.p := by
  obtain ⟨_, _, h⟩ := pushed_keeps s v; rw [h]
@[simp] theorem pushed_budget (s : State) (v : Byte) : (pushed s v).budget = s.budget := by
  obtain ⟨_, _, h⟩ := pushed_keeps s v; rw [h]
@[simp] theorem pushed_err (s : State) (v : Byte) : (pushed s v).err = s.err := by
  obtain ⟨_, _, h⟩ := pushed_keeps s v; rw [h]
@[simp] theorem pushed_stop (s : State) (v : Byte) : (pushed s v).stop = s.stop := by
  obtain ⟨_, _, h⟩ := pushed_keeps s v; rw [h]
@[simp] theorem pushed_draws (s : State) (v : Byte) : (pushed s v).draws = s.draws := by
  obtain ⟨_, _, h⟩ := pushed_keeps s v; rw [h]

@[simp] theorem cellOf_pushed (s : State) (v : Byte) (a : Addr) : (pushed s v).cellOf a = s.cellOf a := by simp [pushed]
@[simp] theorem storedCells_pushed (s : State) (v : Byte) (a : Addr) :
    (pushed s v).storedCells a = s.storedCells a := by simp [pushed]

/-- A cell read after a push: the byte in the cells a store to the stack cell writes, the old byte in every other. -/
@[simp] theorem readCell_pushed (s : State) (v : Byte) (c : CellRef) :
    (pushed s v).readCell c = if c ∈ s.storedCells (stackAddr s.s) then v else s.readCell c := by
  rw [← State.readCell_memStore]
  cases c <;> rfl

/-- An address read after a push. -/
theorem memRead_pushed (s : State) (v : Byte) (a : Addr) :
    memRead (pushed s v) a = if s.cellOf a ∈ s.storedCells (stackAddr s.s) then v else memRead s a := by
  simp [memRead]

/-- Entering the break trap is three pushes, B set and a jump through the vector. -/
theorem enterBreak_eq (s : State) :
    let t := (pushed (pushed (pushed s (loByte s.pc)) (hiByte s.pc)) s.p).setFlag .b true
    enterBreak s = .next (t.setPc (memRead16 t breakVector)) := by
  simp [enterBreak, push_eq]

@[simp] theorem pop_fst (s : State) : (pop s).1 = memRead s (stackAddr (s.s + 1)) := by simp [pop]
@[simp] theorem pop_snd (s : State) : (pop s).2 = s.setReg .s (s.s + 1) := rfl

end Sys2Proof.Machine
end

