-- ==== Sys2Proof/Laws/Exec.lean ====
section
/-! SUPPORT. What an instruction and a step can do to the mapper, said once: a run of register changes and of unprotected stores; and where the stack's cells lie. -/

namespace Sys2Proof.Machine

/-- From `s`, register and session changes and stores that are not turned away lead to `t`. -/
inductive Reaches : State → State → Prop where
  | regs {s t : State} (h : SameMapper s t) : Reaches s t
  | store (s : State) (a : Addr) (v : Byte) (h : s.writeProtected a = false) : Reaches s (memStore s a v)
  | trans {s t u : State} (h₁ : Reaches s t) (h₂ : Reaches t u) : Reaches s u

/-- A property that register changes and unprotected stores keep is kept along `Reaches`. -/
theorem Reaches.keeps {Q : State → Prop} (regs : ∀ s t, SameMapper s t → Q s → Q t)
    (store : ∀ s a v, s.writeProtected a = false → Q s → Q (memStore s a v)) {s t : State} (h : Reaches s t) :
    Q s → Q t := by
  induction h with
  | regs h => exact regs _ _ h
  | store s a v h => exact store s a v h
  | trans _ _ ih₁ ih₂ => exact fun hs => ih₂ (ih₁ hs)

theorem SameMapper.refl (s : State) : SameMapper s s := ⟨rfl, rfl, rfl, rfl, rfl⟩

theorem sameMapper_setReg (s : State) (r : Reg) (v : Byte) : SameMapper s (s.setReg r v) := by
  cases r <;> exact .refl s

theorem sameMapper_setAlu (s : State) (r : Reg) (out : AluOut) : SameMapper s (s.setAlu r out) := by
  cases r <;> exact .refl s

theorem memWrite_reaches {s t : State} {a : Addr} {v : Byte} (h : memWrite s a v = .next t) : Reaches s t := by
  unfold memWrite at h
  split at h
  · cases h
  · next hp =>
    cases h
    exact .store s a v (Bool.eq_false_iff.mpr hp)

theorem push_reaches {s t : State} {v : Byte} (h : push s v = .next t) : Reaches s t := by
  rw [push_eq] at h
  cases h
  exact .trans (.store s _ v (stack_unprotected s s.s)) (.regs (sameMapper_setReg _ _ _))

theorem aluInto_reaches {r f m s t} (h : aluInto r f m s = .next t) : Reaches s t := by
  cases h; exact .trans (.regs (.refl s)) (.regs (sameMapper_setAlu _ _ _))

theorem aluTest_reaches {r f m s t} (h : aluTest r f m s = .next t) : Reaches s t := by
  cases h; exact .regs (.refl s)

theorem loadReg_reaches {r m s t} (h : loadReg r m s = .next t) : Reaches s t := by
  cases h; exact .trans (.regs (.refl s)) (.regs (sameMapper_setAlu _ _ _))

theorem storeReg_reaches {r m s t} (h : storeReg r m s = .next t) : Reaches s t :=
  .trans (t := skipOperand m s) (.regs (.refl s)) (memWrite_reaches h)

theorem modifyMem_reaches {f m s t} (h : modifyMem f m s = .next t) : Reaches s t :=
  .trans (t := (skipOperand m s).setP (f (memRead s (ea m s)) s.p).2) (.regs (.refl s)) (memWrite_reaches h)

theorem modifyReg_reaches {r f s t} (h : modifyReg r f s = .next t) : Reaches s t := by
  cases h; exact .regs (sameMapper_setAlu _ _ _)

theorem modifyTarget_reaches {f g s t} (h : modifyTarget f g s = .next t) : Reaches s t := by
  cases g with
  | acc => exact modifyReg_reaches h
  | mem m => exact modifyMem_reaches h

theorem transfer_reaches {src dst s t} (h : transfer src dst s = .next t) : Reaches s t := by
  cases h; exact .regs (sameMapper_setAlu _ _ _)

theorem writeFlag_reaches {f b s t} (h : writeFlag f b s = .next t) : Reaches s t := by
  cases h; exact .regs (.refl s)

theorem branch_reaches {c d s t} (h : branch c d s = .next t) : Reaches s t := by
  cases h
  cases c <;> exact .regs (.refl s)

theorem enterBreak_reaches {s t : State} (h : enterBreak s = .next t) : Reaches s t := by
  unfold enterBreak at h
  obtain ⟨s1, h1, h⟩ := andThen_eq_next.mp h
  obtain ⟨s2, h2, h⟩ := andThen_eq_next.mp h
  obtain ⟨s3, h3, h⟩ := andThen_eq_next.mp h
  cases h
  exact .trans (push_reaches h1) (.trans (push_reaches h2) (.trans (push_reaches h3) (.regs (.refl _))))

/-- Whatever an instruction does to the mapper, it does by unprotected stores. -/
theorem exec_reaches {i : Instr} {s t : State} (h : exec i s = .next t) : Reaches s t := by
  cases i with
  | ora m => exact aluInto_reaches h
  | and m => exact aluInto_reaches h
  | eor m => exact aluInto_reaches h
  | adc m => exact aluInto_reaches h
  | sbc m => exact aluInto_reaches h
  | sta m => exact storeReg_reaches h
  | stx m => exact storeReg_reaches h
  | sty m => exact storeReg_reaches h
  | lda m => exact loadReg_reaches h
  | ldx m => exact loadReg_reaches h
  | ldy m => exact loadReg_reaches h
  | cmp m => exact aluTest_reaches h
  | cpx m => exact aluTest_reaches h
  | cpy m => exact aluTest_reaches h
  | bit m => exact aluTest_reaches h
  | asl g => exact modifyTarget_reaches h
  | rol g => exact modifyTarget_reaches h
  | lsr g => exact modifyTarget_reaches h
  | ror g => exact modifyTarget_reaches h
  | inc m => exact modifyMem_reaches h
  | dec m => exact modifyMem_reaches h
  | inx => exact modifyReg_reaches h
  | iny => exact modifyReg_reaches h
  | dex => exact modifyReg_reaches h
  | dey => exact modifyReg_reaches h
  | tax => exact transfer_reaches h
  | tay => exact transfer_reaches h
  | txa => exact transfer_reaches h
  | tya => exact transfer_reaches h
  | tsx => exact transfer_reaches h
  | txs => exact transfer_reaches h
  | pha => exact push_reaches h
  | php => exact push_reaches h
  | bpl d => exact branch_reaches h
  | bmi d => exact branch_reaches h
  | bvc d => exact branch_reaches h
  | bvs d => exact branch_reaches h
  | bcc d => exact branch_reaches h
  | bcs d => exact branch_reaches h
  | bne d => exact branch_reaches h
  | beq d => exact branch_reaches h
  | brk => exact .trans (t := advance 1 s) (.regs (.refl s)) (enterBreak_reaches h)
  | jsr a =>
    obtain ⟨s1, h1, h⟩ := andThen_eq_next.mp h
    obtain ⟨s2, h2, h⟩ := andThen_eq_next.mp h
    cases h
    exact .trans (push_reaches h1) (.trans (push_reaches h2) (.regs (.refl _)))
  | unk op =>
    cases h
    unfold latchUnknown
    split <;> exact .regs (.refl s)
  | jmp j => cases j <;> (cases h; exact .regs (.refl s))
  | kil op => cases h; exact .regs (.refl s)
  | nop => cases h; exact .regs (.refl s)
  | dop op d => cases h; exact .regs (.refl s)
  | clc => exact writeFlag_reaches h
  | sec => exact writeFlag_reaches h
  | cli => exact writeFlag_reaches h
  | sei => exact writeFlag_reaches h
  | clv => exact writeFlag_reaches h
  | cld => exact writeFlag_reaches h
  | sed => exact writeFlag_reaches h
  | pla => cases h; exact .regs (.refl s)
  | plp => cases h; exact .regs (.refl s)
  | rts => cases h; exact .regs (.refl s)
  | rti => cases h; exact .regs (.refl s)

/-- What a step that answers a next state did: no error was latched, the instruction ran on the state after fetch and debit,
and T was drawn. -/
theorem step_next {s t : State} (h : step s = .next t) :
    s.err = .none ∧ ∃ u, exec (fetchInstr s) (beginStep s) = .next u ∧ t = endStep u := by
  unfold step at h
  split at h
  · next herr =>
    obtain ⟨u, hu, h⟩ := andThen_eq_next.mp h
    cases h
    exact ⟨herr, u, hu, rfl⟩
  · cases h
  · cases h

/-- Whatever a step does to the mapper, it does by unprotected stores. -/
theorem step_reaches {s t : State} (h : step s = .next t) : Reaches s t := by
  obtain ⟨-, u, hu, rfl⟩ := step_next h
  exact .trans (t := beginStep s) (.regs (.refl s)) (.trans (exec_reaches hu) (.regs (.refl u)))

/-- JSR always answers a next state: two pushes and the jump. -/
theorem execJsr_eq (a : Addr) (s : State) :
    exec (.jsr a) s = .next ((pushed (pushed s (loByte (s.pc + 1))) (hiByte (s.pc + 1))).setPc a) := by
  simp [exec, execJsr, push_eq]

/-- BRK always answers a next state: past the padding byte, then the trap's entry. -/
theorem execBrk_eq (s : State) :
    let t := (pushed (pushed (pushed (advance 1 s) (loByte (s.pc + 1))) (hiByte (s.pc + 1))) s.p).setFlag .b true
    exec .brk s = .next (t.setPc (memRead16 t breakVector)) := enterBreak_eq (advance 1 s)

/-! Stack and cells in numbers. -/

theorem pageSlot_val (a : Addr) : (pageSlot a).val = a.toNat / 4096 := by
  have := a.isLt
  simp only [pageSlot, BitVec.extractLsb', BitVec.toNat]
  simp [Nat.shiftRight_eq_div_pow]
  omega

theorem pageOffset_val (a : Addr) : pageOffset a = a.toNat % 4096 := by
  simp [pageOffset, BitVec.extractLsb']

/-- The storage index of the cell at an address is congruent to the address modulo a page. -/
def CellRef.index : CellRef → Nat
  | .flat n => n
  | .bank n => n

theorem State.cellOf_index_mod (s : State) (a : Addr) : (s.cellOf a).index % 4096 = a.toNat % 4096 := by
  rw [State.cellOf, pageOffset_val]
  cases s.pt.get (pageSlot a) <;> simp only [PageEntry.cell, CellRef.index] <;> omega

/-- A store writes cells at the same offset modulo 2 KB only. -/
theorem State.storedCells_index_mod {s : State} {a : Addr} {c : CellRef} (h : c ∈ s.storedCells a) :
    c.index % 0x0800 = a.toNat % 0x0800 := by
  rw [State.storedCells, List.mem_cons] at h
  rcases h with rfl | h
  · have := s.cellOf_index_mod a
    omega
  · split at h
    · simp [mirrorImages] at h
      rcases h with rfl | rfl | rfl | rfl <;> simp only [CellRef.index] <;> omega
    · cases h

/-- A store to one stack cell does not reach another. -/
theorem State.stack_cells_apart (s : State) {p q : Byte} (h : p ≠ q) :
    s.cellOf (stackAddr p) ∉ s.storedCells (stackAddr q) := by
  intro hm
  have h1 := State.storedCells_index_mod hm
  have h2 := s.cellOf_index_mod (stackAddr p)
  rw [stackAddr_toNat] at h1 h2
  have := p.isLt
  have := q.isLt
  exact h (BitVec.eq_of_toNat_eq (by omega))

end Sys2Proof.Machine
end

