-- ==== Sys2Proof/Laws/Mapper.lean ====
section
/-! SUPPORT. Every operation that writes storage keeps both storages in canonical form: cell writes, stores, pushes, placing bytes, building a mapper; and the reset state has it. -/

namespace Sys2Proof.Machine

/-- Both storages are in canonical form. -/
abbrev State.storageWf (s : State) : Prop := Memory.wf s.flat ∧ Memory.wf s.banks

theorem State.writeCell_wf {s : State} (c : CellRef) (v : Byte) (h : s.storageWf) : (s.writeCell c v).storageWf := by
  cases c with
  | flat n => exact ⟨Memory.wf_write _ _ _ h.1, h.2⟩
  | bank n => exact ⟨h.1, Memory.wf_write _ _ _ h.2⟩

theorem State.writeCells_wf (cs : List CellRef) (v : Byte) : ∀ s : State, s.storageWf →
    (cs.foldl (fun t c => t.writeCell c v) s).storageWf := by
  induction cs with
  | nil => exact fun _ h => h
  | cons c cs ih => exact fun s h => ih _ (State.writeCell_wf c v h)

theorem memStore_wf {s : State} (a : Addr) (v : Byte) (h : s.storageWf) : (memStore s a v).storageWf :=
  State.writeCells_wf _ v s h

theorem memWrite_wf {s t : State} {a : Addr} {v : Byte} (h : s.storageWf) (hw : memWrite s a v = .next t) :
    t.storageWf := by
  rw [memWrite_eq] at hw
  split at hw
  · cases hw
  · cases hw
    exact memStore_wf a v h

theorem push_wf {s t : State} {v : Byte} (h : s.storageWf) (hp : push s v = .next t) : t.storageWf := by
  rw [push_eq] at hp
  cases hp
  exact memStore_wf _ v h

theorem placeBytes_wf (bs : List Byte) : ∀ (s : State) (a : Addr), s.storageWf → (placeBytes s a bs).storageWf := by
  induction bs with
  | nil => exact fun _ _ h => h
  | cons b bs ih => exact fun s a h => ih _ _ (State.writeCell_wf _ b h)

theorem placeInstr_wf {s : State} (bs : List Byte) (h : s.storageWf) : (placeInstr s bs).storageWf :=
  placeBytes_wf bs s s.pc h

theorem zeroIoWindows_wf {m : Memory} (h : Memory.wf m) : Memory.wf (zeroIoWindows m) :=
  Memory.wf_writeBlock _ _ _ (Memory.wf_writeBlock _ _ _ h)

theorem setDeviceCells_wf (par : LoadParams) {m : Memory} (h : Memory.wf m) : Memory.wf (setDeviceCells par m) :=
  Memory.wf_write _ _ _ (Memory.wf_write _ _ _ (Memory.wf_write _ _ _ h))

theorem placePrg_wf {m : Memory} (n : Nat) (prg : List Byte) (h : Memory.wf m) : Memory.wf (placePrg m n prg) := by
  unfold placePrg
  split
  · exact Memory.wf_writeBlock _ _ _ (Memory.wf_writeBlock _ _ _ h)
  · split
    · exact Memory.wf_writeBlock _ _ _ h
    · exact h

/-- A mapper built over canonical initial contents is canonical. -/
theorem buildMapper_wf (par : LoadParams) (n : Nat) (prg : List Byte) (h : Memory.wf par.initMem) :
    Memory.wf (buildMapper par n prg).flat ∧ Memory.wf (buildMapper par n prg).banks := by
  refine ⟨setDeviceCells_wf par (zeroIoWindows_wf (placePrg_wf n prg h)), ?_⟩
  simp only [buildMapper]
  split
  · exact Memory.wf_nil
  · exact Memory.wf_writeBlock _ _ _ Memory.wf_nil

/-- The reset state's storages list nothing. -/
theorem reset_storage_wf : State.reset.storageWf := ⟨Memory.wf_nil, Memory.wf_nil⟩

end Sys2Proof.Machine
end

