-- ==== Sys2Proof/Laws/PerInstr.lean ====
section
/-! SUPPORT. Statements made per instruction. `EncodingLength`: the length of a well-formed instruction is one opcode byte and its operand bytes, and is known from the opcode byte alone (30_encoding R100). -/

namespace Sys2Proof.Laws.EncodingLength

open Sys2Proof

/-- Under any two opcode sets that give the instruction an encoding, the encoding is one opcode byte and the operand bytes, and
whatever follows the opcode byte decodes to an instruction of as many operand bytes (30_encoding R100). -/
def Statement (i : Instr) : Prop :=
  ∀ sets, i.hasEncoding sets = true → (encode i).length = 1 + i.operandBytes ∧
    ∀ b1 b2, (decodeOp sets i.opcode b1 b2).operandBytes = i.operandBytes

/-- What an encoding says of the opcode byte's class. -/
theorem class_of_encoding {sets : Machine.OpcodeSets} {i : Instr} (h : i.hasEncoding sets = true) :
    i.wf = true ∧ sets.classOf i.opcode = i.opcodeClass := by
  simpa [Instr.hasEncoding] using h

/-- For an instruction of the opcode map it is a matter of the map alone. -/
theorem of_map {i : Instr} (hc : i.opcodeClass = .map)
    (h : i.wf = true → (encode i).length = 1 + i.operandBytes ∧
      ∀ b1 b2, (mapInstr i.opcode b1 b2).operandBytes = i.operandBytes) : Statement i := by
  intro sets he
  obtain ⟨hw, hop⟩ := class_of_encoding he
  simpa [decodeOp, hop, hc] using h hw

/-- The bytes that are no instruction's take no operand byte in the map. -/
theorem unk_bytes (op b1 b2 : Byte) (h : Machine.notInstruction op = true) :
    (mapInstr op b1 b2).operandBytes = 0 := by
  obtain ⟨n, rfl⟩ : ∃ n : Fin 256, op = BitVec.ofFin n := ⟨op.toFin, rfl⟩
  revert h
  fin_cases n <;> first | exact fun _ => rfl | exact Bool.noConfusion

theorem ora (m : Mode) : Statement (.ora m) := of_map rfl <| by
  intro h
  cases m <;> first | (exfalso; revert h; exact Bool.noConfusion) | exact ⟨rfl, fun _ _ => by simp only [Instr.opcode, fieldsToOpcode, Mode.bbb1]; rfl⟩

theorem and (m : Mode) : Statement (.and m) := of_map rfl <| by
  intro h
  cases m <;> first | (exfalso; revert h; exact Bool.noConfusion) | exact ⟨rfl, fun _ _ => by simp only [Instr.opcode, fieldsToOpcode, Mode.bbb1]; rfl⟩

theorem eor (m : Mode) : Statement (.eor m) := of_map rfl <| by
  intro h
  cases m <;> first | (exfalso; revert h; exact Bool.noConfusion) | exact ⟨rfl, fun _ _ => by simp only [Instr.opcode, fieldsToOpcode, Mode.bbb1]; rfl⟩

theorem adc (m : Mode) : Statement (.adc m) := of_map rfl <| by
  intro h
  cases m <;> first | (exfalso; revert h; exact Bool.noConfusion) | exact ⟨rfl, fun _ _ => by simp only [Instr.opcode, fieldsToOpcode, Mode.bbb1]; rfl⟩

theorem sta (m : Mode) : Statement (.sta m) := of_map rfl <| by
  intro h
  cases m <;> first | (exfalso; revert h; exact Bool.noConfusion) | exact ⟨rfl, fun _ _ => by simp only [Instr.opcode, fieldsToOpcode, Mode.bbb1]; rfl⟩

theorem lda (m : Mode) : Statement (.lda m) := of_map rfl <| by
  intro h
  cases m <;> first | (exfalso; revert h; exact Bool.noConfusion) | exact ⟨rfl, fun _ _ => by simp only [Instr.opcode, fieldsToOpcode, Mode.bbb1]; rfl⟩

theorem cmp (m : Mode) : Statement (.cmp m) := of_map rfl <| by
  intro h
  cases m <;> first | (exfalso; revert h; exact Bool.noConfusion) | exact ⟨rfl, fun _ _ => by simp only [Instr.opcode, fieldsToOpcode, Mode.bbb1]; rfl⟩

theorem sbc (m : Mode) : Statement (.sbc m) := of_map rfl <| by
  intro h
  cases m <;> first | (exfalso; revert h; exact Bool.noConfusion) | exact ⟨rfl, fun _ _ => by simp only [Instr.opcode, fieldsToOpcode, Mode.bbb1]; rfl⟩

theorem asl (t : Target) : Statement (.asl t) := of_map rfl <| by
  intro h
  rcases t with _ | m
  · exact ⟨rfl, fun _ _ => by simp only [Instr.opcode, fieldsToOpcode, Target.bbb]; rfl⟩
  · cases m <;> first | (exfalso; revert h; exact Bool.noConfusion) | exact ⟨rfl, fun _ _ => by simp only [Instr.opcode, fieldsToOpcode, Target.bbb, Mode.bbb2]; rfl⟩

theorem rol (t : Target) : Statement (.rol t) := of_map rfl <| by
  intro h
  rcases t with _ | m
  · exact ⟨rfl, fun _ _ => by simp only [Instr.opcode, fieldsToOpcode, Target.bbb]; rfl⟩
  · cases m <;> first | (exfalso; revert h; exact Bool.noConfusion) | exact ⟨rfl, fun _ _ => by simp only [Instr.opcode, fieldsToOpcode, Target.bbb, Mode.bbb2]; rfl⟩

theorem lsr (t : Target) : Statement (.lsr t) := of_map rfl <| by
  intro h
  rcases t with _ | m
  · exact ⟨rfl, fun _ _ => by simp only [Instr.opcode, fieldsToOpcode, Target.bbb]; rfl⟩
  · cases m <;> first | (exfalso; revert h; exact Bool.noConfusion) | exact ⟨rfl, fun _ _ => by simp only [Instr.opcode, fieldsToOpcode, Target.bbb, Mode.bbb2]; rfl⟩

theorem ror (t : Target) : Statement (.ror t) := of_map rfl <| by
  intro h
  rcases t with _ | m
  · exact ⟨rfl, fun _ _ => by simp only [Instr.opcode, fieldsToOpcode, Target.bbb]; rfl⟩
  · cases m <;> first | (exfalso; revert h; exact Bool.noConfusion) | exact ⟨rfl, fun _ _ => by simp only [Instr.opcode, fieldsToOpcode, Target.bbb, Mode.bbb2]; rfl⟩

theorem stx (m : Mode) : Statement (.stx m) := of_map rfl <| by
  intro h
  cases m <;> first | (exfalso; revert h; exact Bool.noConfusion) | exact ⟨rfl, fun _ _ => by simp only [Instr.opcode, fieldsToOpcode, Mode.bbb2]; rfl⟩

theorem ldx (m : Mode) : Statement (.ldx m) := of_map rfl <| by
  intro h
  cases m <;> first | (exfalso; revert h; exact Bool.noConfusion) | exact ⟨rfl, fun _ _ => by simp only [Instr.opcode, fieldsToOpcode, Mode.bbb2]; rfl⟩

theorem dec (m : Mode) : Statement (.dec m) := of_map rfl <| by
  intro h
  cases m <;> first | (exfalso; revert h; exact Bool.noConfusion) | exact ⟨rfl, fun _ _ => by simp only [Instr.opcode, fieldsToOpcode, Mode.bbb2]; rfl⟩

theorem inc (m : Mode) : Statement (.inc m) := of_map rfl <| by
  intro h
  cases m <;> first | (exfalso; revert h; exact Bool.noConfusion) | exact ⟨rfl, fun _ _ => by simp only [Instr.opcode, fieldsToOpcode, Mode.bbb2]; rfl⟩

theorem bit (m : Mode) : Statement (.bit m) := of_map rfl <| by
  intro h
  cases m <;> first | (exfalso; revert h; exact Bool.noConfusion) | exact ⟨rfl, fun _ _ => by simp only [Instr.opcode, fieldsToOpcode, Mode.bbb2]; rfl⟩

theorem sty (m : Mode) : Statement (.sty m) := of_map rfl <| by
  intro h
  cases m <;> first | (exfalso; revert h; exact Bool.noConfusion) | exact ⟨rfl, fun _ _ => by simp only [Instr.opcode, fieldsToOpcode, Mode.bbb2]; rfl⟩

theorem ldy (m : Mode) : Statement (.ldy m) := of_map rfl <| by
  intro h
  cases m <;> first | (exfalso; revert h; exact Bool.noConfusion) | exact ⟨rfl, fun _ _ => by simp only [Instr.opcode, fieldsToOpcode, Mode.bbb2]; rfl⟩

theorem cpy (m : Mode) : Statement (.cpy m) := of_map rfl <| by
  intro h
  cases m <;> first | (exfalso; revert h; exact Bool.noConfusion) | exact ⟨rfl, fun _ _ => by simp only [Instr.opcode, fieldsToOpcode, Mode.bbb2]; rfl⟩

theorem cpx (m : Mode) : Statement (.cpx m) := of_map rfl <| by
  intro h
  cases m <;> first | (exfalso; revert h; exact Bool.noConfusion) | exact ⟨rfl, fun _ _ => by simp only [Instr.opcode, fieldsToOpcode, Mode.bbb2]; rfl⟩

theorem nop : Statement .nop := of_map rfl fun _ => ⟨rfl, fun _ _ => rfl⟩

/-- A byte of the double-no-op class decodes to a DOP, with one operand byte. -/
theorem dop (op : Byte) (d : Byte) : Statement (.dop op d) := fun _ h =>
  ⟨rfl, fun _ _ => by rw [decodeOp, (class_of_encoding h).2]; rfl⟩

theorem inx : Statement .inx := of_map rfl fun _ => ⟨rfl, fun _ _ => rfl⟩

theorem iny : Statement .iny := of_map rfl fun _ => ⟨rfl, fun _ _ => rfl⟩

theorem dex : Statement .dex := of_map rfl fun _ => ⟨rfl, fun _ _ => rfl⟩

theorem dey : Statement .dey := of_map rfl fun _ => ⟨rfl, fun _ _ => rfl⟩

theorem tax : Statement .tax := of_map rfl fun _ => ⟨rfl, fun _ _ => rfl⟩

theorem tay : Statement .tay := of_map rfl fun _ => ⟨rfl, fun _ _ => rfl⟩

theorem txa : Statement .txa := of_map rfl fun _ => ⟨rfl, fun _ _ => rfl⟩

theorem tya : Statement .tya := of_map rfl fun _ => ⟨rfl, fun _ _ => rfl⟩

theorem tsx : Statement .tsx := of_map rfl fun _ => ⟨rfl, fun _ _ => rfl⟩

theorem txs : Statement .txs := of_map rfl fun _ => ⟨rfl, fun _ _ => rfl⟩

theorem pha : Statement .pha := of_map rfl fun _ => ⟨rfl, fun _ _ => rfl⟩

theorem php : Statement .php := of_map rfl fun _ => ⟨rfl, fun _ _ => rfl⟩

theorem pla : Statement .pla := of_map rfl fun _ => ⟨rfl, fun _ _ => rfl⟩

theorem plp : Statement .plp := of_map rfl fun _ => ⟨rfl, fun _ _ => rfl⟩

theorem clc : Statement .clc := of_map rfl fun _ => ⟨rfl, fun _ _ => rfl⟩

theorem sec : Statement .sec := of_map rfl fun _ => ⟨rfl, fun _ _ => rfl⟩

theorem cli : Statement .cli := of_map rfl fun _ => ⟨rfl, fun _ _ => rfl⟩

theorem sei : Statement .sei := of_map rfl fun _ => ⟨rfl, fun _ _ => rfl⟩

theorem clv : Statement .clv := of_map rfl fun _ => ⟨rfl, fun _ _ => rfl⟩

theorem cld : Statement .cld := of_map rfl fun _ => ⟨rfl, fun _ _ => rfl⟩

theorem sed : Statement .sed := of_map rfl fun _ => ⟨rfl, fun _ _ => rfl⟩

theorem bpl (d : Byte) : Statement (.bpl d) := of_map rfl fun _ => ⟨rfl, fun _ _ => by simp only [Instr.opcode, branchOpcode]; rfl⟩

theorem bmi (d : Byte) : Statement (.bmi d) := of_map rfl fun _ => ⟨rfl, fun _ _ => by simp only [Instr.opcode, branchOpcode]; rfl⟩

theorem bvc (d : Byte) : Statement (.bvc d) := of_map rfl fun _ => ⟨rfl, fun _ _ => by simp only [Instr.opcode, branchOpcode]; rfl⟩

theorem bvs (d : Byte) : Statement (.bvs d) := of_map rfl fun _ => ⟨rfl, fun _ _ => by simp only [Instr.opcode, branchOpcode]; rfl⟩

theorem bcc (d : Byte) : Statement (.bcc d) := of_map rfl fun _ => ⟨rfl, fun _ _ => by simp only [Instr.opcode, branchOpcode]; rfl⟩

theorem bcs (d : Byte) : Statement (.bcs d) := of_map rfl fun _ => ⟨rfl, fun _ _ => by simp only [Instr.opcode, branchOpcode]; rfl⟩

theorem bne (d : Byte) : Statement (.bne d) := of_map rfl fun _ => ⟨rfl, fun _ _ => by simp only [Instr.opcode, branchOpcode]; rfl⟩

theorem beq (d : Byte) : Statement (.beq d) := of_map rfl fun _ => ⟨rfl, fun _ _ => by simp only [Instr.opcode, branchOpcode]; rfl⟩

theorem jmp (t : JmpTarget) : Statement (.jmp t) := of_map rfl <| by
  intro _
  cases t <;> exact ⟨rfl, fun _ _ => by simp only [Instr.opcode]; rfl⟩

theorem jsr (a : Addr) : Statement (.jsr a) := of_map rfl fun _ => ⟨rfl, fun _ _ => by simp only [Instr.opcode]; rfl⟩

theorem rts : Statement .rts := of_map rfl fun _ => ⟨rfl, fun _ _ => rfl⟩

theorem brk : Statement .brk := of_map rfl fun _ => ⟨rfl, fun _ _ => rfl⟩

theorem rti : Statement .rti := of_map rfl fun _ => ⟨rfl, fun _ _ => rfl⟩

/-- A byte of the lock class decodes to a KIL, with no operand byte. -/
theorem kil (op : Byte) : Statement (.kil op) := fun _ h =>
  ⟨rfl, fun _ _ => by rw [decodeOp, (class_of_encoding h).2]; rfl⟩

theorem unk (op : Byte) : Statement (.unk op) := of_map rfl fun h => ⟨rfl, fun b1 b2 => unk_bytes op b1 b2 h⟩

end Sys2Proof.Laws.EncodingLength
end

