-- ==== Sys2Proof/Tests/Slice0.lean ====
section
/-! SUPPORT. Tests of the model: each well-formedness check refuses an ill-formed term; every constructor's decoding from a word written out bit by bit; single steps with the values of 95_test_vectors; and for every obligation with hypotheses a concrete case that meets them. -/

namespace Sys2Proof.Tests

open Sys2Proof Sys2Proof.Machine

/-! Well-formedness: every mode without an encoding is refused. -/

/-- 30_encoding R104: no zero-page,Y form. -/
theorem test_wf_group1 : ∀ f ∈ [Instr.ora, .and, .eor, .adc, .lda, .cmp, .sbc],
    (f (.zpy 1)).wf = false ∧ (f (.imm 1)).wf = true := by decide

/-- 30_encoding R104: no store to an immediate. -/
theorem test_wf_sta : ∀ m ∈ [Mode.imm 1, .zpy 1], (Instr.sta m).wf = false := by decide

/-- 42_shift_rmw_group2 R171: only the four memory modes. -/
theorem test_wf_rmw : ∀ f ∈ [Instr.inc, .dec, fun m => .asl (.mem m), fun m => .rol (.mem m), fun m => .lsr (.mem m),
      fun m => .ror (.mem m)], ∀ m ∈ [Mode.imm 1, .zpy 1, .aby 1, .izx 1, .izy 1], (f m).wf = false := by decide

/-- 30_encoding R110. -/
theorem test_wf_ldx : ∀ m ∈ [Mode.zpx 1, .abx 1, .izx 1, .izy 1], (Instr.ldx m).wf = false := by decide

/-- 30_encoding R110. -/
theorem test_wf_stx : ∀ m ∈ [Mode.imm 1, .zpx 1, .abx 1, .aby 1, .izx 1, .izy 1], (Instr.stx m).wf = false := by decide

/-- 30_encoding R106. -/
theorem test_wf_ldy : ∀ m ∈ [Mode.zpy 1, .aby 1, .izx 1, .izy 1], (Instr.ldy m).wf = false := by decide

/-- 30_encoding R106. -/
theorem test_wf_sty : ∀ m ∈ [Mode.imm 1, .zpy 1, .abx 1, .aby 1, .izx 1, .izy 1], (Instr.sty m).wf = false := by decide

/-- 30_encoding R106. -/
theorem test_wf_bit : ∀ m ∈ [Mode.imm 1, .zpx 1, .zpy 1, .abx 1, .aby 1, .izx 1, .izy 1], (Instr.bit m).wf = false := by
  decide

/-- 30_encoding R106. -/
theorem test_wf_compare_index : ∀ f ∈ [Instr.cpx, .cpy], ∀ m ∈ [Mode.zpx 1, .zpy 1, .abx 1, .aby 1, .izx 1, .izy 1],
    (f m).wf = false := by decide

/-- 30_encoding R103, R113, R114, R115: an opcode byte of another class has no encoding; an instruction's byte is no unknown
opcode. -/
theorem test_wf_opcode_byte :
    (Instr.unk 0xEA).wf = false ∧ (Instr.dop 0xEA 1).hasEncoding defaultSets = false ∧
    (Instr.kil 0x04).hasEncoding defaultSets = false ∧ (Instr.unk 0x02).hasEncoding defaultSets = false ∧
    (Instr.sta (.imm 1)).hasEncoding defaultSets = false ∧
    (Instr.dop 0x04 1).hasEncoding defaultSets = true ∧ (Instr.kil 0x02).hasEncoding defaultSets = true ∧
    (Instr.unk 0xFF).hasEncoding defaultSets = true := by decide

/-- 92_eei_decisions D5, 30_encoding R114: with DOP_OPCODES empty its bytes are unknown opcodes; with another LOCK_OPCODES set
the jamming bytes are too. -/
theorem test_sets :
    decode { defaultSets with dop := [] } [0x04, 7] = .ok (.unk 0x04, [7]) ∧
    decode { lock := [0x03], dop := [] } [0x03] = .ok (.kil 0x03, []) ∧
    decode { lock := [0x03], dop := [] } [0x02] = .ok (.unk 0x02, []) ∧
    decode { lock := [], dop := [] } [0xA9, 0x42] = .ok (.lda (.imm 0x42), []) := by decide

/-! Decoding, one word of every constructor. -/

/-- 30_encoding R104: `aaa bbb 01`. -/
theorem test_decode_group1 :
    decode defaultSets [0b00000001, 0x40] = .ok (.ora (.izx 0x40), []) ∧
    decode defaultSets [0b00100101, 0x40] = .ok (.and (.zp 0x40), []) ∧
    decode defaultSets [0b01001001, 0x40] = .ok (.eor (.imm 0x40), []) ∧
    decode defaultSets [0b01101101, 0x34, 0x12] = .ok (.adc (.abs 0x1234), []) ∧
    decode defaultSets [0b10010001, 0x40] = .ok (.sta (.izy 0x40), []) ∧
    decode defaultSets [0b10110101, 0x40] = .ok (.lda (.zpx 0x40), []) ∧
    decode defaultSets [0b11011001, 0x34, 0x12] = .ok (.cmp (.aby 0x1234), []) ∧
    decode defaultSets [0b11111101, 0x34, 0x12] = .ok (.sbc (.abx 0x1234), []) := by decide

/-- 30_encoding R105, R110: `aaa bbb 10`. -/
theorem test_decode_group2 :
    decode defaultSets [0b00000110, 0x40] = .ok (.asl (.mem (.zp 0x40)), []) ∧
    decode defaultSets [0b00101010] = .ok (.rol .acc, []) ∧
    decode defaultSets [0b01001110, 0x34, 0x12] = .ok (.lsr (.mem (.abs 0x1234)), []) ∧
    decode defaultSets [0b01111110, 0x34, 0x12] = .ok (.ror (.mem (.abx 0x1234)), []) ∧
    decode defaultSets [0b10010110, 0x40] = .ok (.stx (.zpy 0x40), []) ∧
    decode defaultSets [0b10111110, 0x34, 0x12] = .ok (.ldx (.aby 0x1234), []) ∧
    decode defaultSets [0b11010110, 0x40] = .ok (.dec (.zpx 0x40), []) ∧
    decode defaultSets [0b11100110, 0x40] = .ok (.inc (.zp 0x40), []) := by decide

/-- 30_encoding R106: `aaa bbb 00`. -/
theorem test_decode_group3 :
    decode defaultSets [0b00100100, 0x40] = .ok (.bit (.zp 0x40), []) ∧
    decode defaultSets [0b10010100, 0x40] = .ok (.sty (.zpx 0x40), []) ∧
    decode defaultSets [0b10111100, 0x34, 0x12] = .ok (.ldy (.abx 0x1234), []) ∧
    decode defaultSets [0b11000000, 0x40] = .ok (.cpy (.imm 0x40), []) ∧
    decode defaultSets [0b11101100, 0x34, 0x12] = .ok (.cpx (.abs 0x1234), []) := by decide

/-- 30_encoding R107, R114. -/
theorem test_decode_single_byte :
    decode defaultSets [0b11101010] = .ok (.nop, []) ∧ decode defaultSets [0b10000000, 0x40] = .ok (.dop 0x80 0x40, []) ∧
    decode defaultSets [0b11101000] = .ok (.inx, []) ∧ decode defaultSets [0b11001000] = .ok (.iny, []) ∧
    decode defaultSets [0b11001010] = .ok (.dex, []) ∧ decode defaultSets [0b10001000] = .ok (.dey, []) ∧
    decode defaultSets [0b10101010] = .ok (.tax, []) ∧ decode defaultSets [0b10101000] = .ok (.tay, []) := by decide

/-- 30_encoding R107, R112. -/
theorem test_decode_transfer_stack :
    decode defaultSets [0b10001010] = .ok (.txa, []) ∧ decode defaultSets [0b10011000] = .ok (.tya, []) ∧
    decode defaultSets [0b10111010] = .ok (.tsx, []) ∧ decode defaultSets [0b10011010] = .ok (.txs, []) ∧
    decode defaultSets [0b01001000] = .ok (.pha, []) ∧ decode defaultSets [0b00001000] = .ok (.php, []) ∧
    decode defaultSets [0b01101000] = .ok (.pla, []) ∧ decode defaultSets [0b00101000] = .ok (.plp, []) := by decide

/-- 44_single_byte R230 to R236. -/
theorem test_decode_flags :
    decode defaultSets [0b00011000] = .ok (.clc, []) ∧ decode defaultSets [0b00111000] = .ok (.sec, []) ∧
    decode defaultSets [0b01011000] = .ok (.cli, []) ∧ decode defaultSets [0b01111000] = .ok (.sei, []) ∧
    decode defaultSets [0b10111000] = .ok (.clv, []) ∧ decode defaultSets [0b11011000] = .ok (.cld, []) ∧
    decode defaultSets [0b11111000] = .ok (.sed, []) := by decide

/-- 30_encoding R108: `xx y 10000`; the flag is N, V, C, Z by `xx`, its value `y`. -/
theorem test_decode_branch :
    decode defaultSets [0b00010000, 0xFE] = .ok (.bpl 0xFE, []) ∧ decode defaultSets [0b00110000, 0xFE] = .ok (.bmi 0xFE, []) ∧
    decode defaultSets [0b01010000, 0xFE] = .ok (.bvc 0xFE, []) ∧ decode defaultSets [0b01110000, 0xFE] = .ok (.bvs 0xFE, []) ∧
    decode defaultSets [0b10010000, 0xFE] = .ok (.bcc 0xFE, []) ∧ decode defaultSets [0b10110000, 0xFE] = .ok (.bcs 0xFE, []) ∧
    decode defaultSets [0b11010000, 0xFE] = .ok (.bne 0xFE, []) ∧ decode defaultSets [0b11110000, 0xFE] = .ok (.beq 0xFE, []) := by decide

/-- 30_encoding R107, R109, R113, R115. -/
theorem test_decode_control :
    decode defaultSets [0b01001100, 0x34, 0x12] = .ok (.jmp (.abs 0x1234), []) ∧
    decode defaultSets [0b01101100, 0x34, 0x12] = .ok (.jmp (.ind 0x1234), []) ∧
    decode defaultSets [0b00100000, 0x34, 0x12] = .ok (.jsr 0x1234, []) ∧
    decode defaultSets [0b01100000] = .ok (.rts, []) ∧ decode defaultSets [0b00000000] = .ok (.brk, []) ∧
    decode defaultSets [0b01000000] = .ok (.rti, []) ∧ decode defaultSets [0b11110010] = .ok (.kil 0xF2, []) ∧
    decode defaultSets [0b11111111] = .ok (.unk 0xFF, []) ∧ decode defaultSets [0b10011110] = .ok (.unk 0x9E, []) := by decide

/-- 30_encoding R100: the bytes after the instruction are left; too few bytes are refused by the opcode's name. -/
theorem test_decode_rest :
    decode defaultSets [0xA9, 0x42, 0xEA] = .ok (.lda (.imm 0x42), [0xEA]) ∧ decode defaultSets [0xAD, 0x00] = .error (.truncated 0xAD) ∧
    decode defaultSets [] = .error .empty := by decide

/-- An opcode-table word with its operand bytes zero, and with an operand. -/
theorem test_table_word :
    decodeTableWord 8 0x20 = some (.jsr 0) ∧ decodeTableWord 24 0x1234BD = some (.lda (.abx 0x1234)) := by decide

/-! Single steps with the values of 95_test_vectors, started as its conventions say. -/

/-- PC = 0x8000, S = 0xFF, all else as after reset. -/
def home : State := { State.reset with pc := 0x8000, s := 0xFF }

/-- Something of the state one step after these bytes are placed at PC. -/
def after {α : Type} (s : State) (bytes : List Byte) (f : State → α) : Option α :=
  match step (placeInstr s bytes) with
  | .next t => some (f t)
  | .fault _ => none
  | .refused _ => none

/-- The fault of that step, if it ends in one. -/
def faultOf (s : State) (bytes : List Byte) : Option Fault :=
  match step (placeInstr s bytes) with
  | .next _ => none
  | .fault e => some e
  | .refused _ => none

/-- 95_test_vectors row A1. -/
theorem test_ora_A1 :
    after { home with a := 0xF0 } [0x09, 0x0F] (fun t => (t.a, t.p)) = some (0xFF, 0x80) := by
  decide

/-- 95_test_vectors row A2. -/
theorem test_ora_A2 :
    after home [0x09, 0x00] (fun t => (t.a, t.p)) = some (0x00, 0x02) := by
  decide

/-- 95_test_vectors row A3. -/
theorem test_and_A3 :
    after { home with a := 0xF0 } [0x29, 0x0F] (fun t => (t.a, t.p)) = some (0x00, 0x02) := by
  decide

/-- 95_test_vectors row A4. -/
theorem test_and_A4 :
    after { home with a := 0xFF, flat := [(0x0010, 0x80)] } [0x25, 0x10] (fun t => (t.a, t.p)) = some (0x80, 0x80) := by
  decide

/-- 95_test_vectors row A5. -/
theorem test_eor_A5 :
    after { home with a := 0xFF } [0x49, 0xFF] (fun t => (t.a, t.p)) = some (0x00, 0x02) := by
  decide

/-- 95_test_vectors row A6. -/
theorem test_eor_A6 :
    after { home with a := 0x01, p := 0x43 } [0x49, 0x80] (fun t => (t.a, t.p)) = some (0x81, 0xC1) := by
  decide

/-- 95_test_vectors row M11. -/
theorem test_lda_M11 :
    after { home with flat := [(0x0000, 0x03), (0x0100, 0x99), (0x0300, 0xAB), (0x9900, 0xEE)] } [0xA1, 0xFF] (fun t => (t.a, t.p)) = some (0xAB, 0x80) := by
  decide

/-- 95_test_vectors row M7. -/
theorem test_lda_M7 :
    after { home with x := 0x01, flat := [(0x0000, 0x66)] } [0xBD, 0xFF, 0xFF] (fun t => (t.a, t.p)) = some (0x66, 0x00) := by
  decide

/-- 95_test_vectors row A11. -/
theorem test_sta_A11 :
    after { home with a := 0x99, y := 0x02, flat := [(0x0040, 0xFE), (0x0041, 0x02)] } [0x91, 0x40] (fun t => (t.p, memRead t 0x0300, memRead t 0x0B00)) = some (0x00, 0x99, 0x99) := by
  decide

/-- 95_test_vectors row W7. -/
theorem test_sta_W7 :
    faultOf { home with a := 0xA6, params := { defaultParams with roEnforce := true } } [0x8D, 0x00, 0x80] = some (.writeProtect 0x8000) := by
  decide

/-- 95_test_vectors row A16. -/
theorem test_adc_A16 :
    after { home with a := 0x80 } [0x69, 0x80] (fun t => (t.a, t.p)) = some (0x00, 0x43) := by
  decide

/-- 95_test_vectors row A20. -/
theorem test_adc_A20 :
    after { home with a := 0x09, p := 0x08 } [0x69, 0x09] (fun t => (t.a, t.p)) = some (0x12, 0x08) := by
  decide

/-- 95_test_vectors row A27. -/
theorem test_sbc_A27 :
    after { home with a := 0x50 } [0xE9, 0x50] (fun t => (t.a, t.p)) = some (0xFF, 0x80) := by
  decide

/-- 95_test_vectors row A29. -/
theorem test_sbc_A29 :
    after { home with a := 0x7F, p := 0x01 } [0xE9, 0xFF] (fun t => (t.a, t.p)) = some (0x80, 0xC0) := by
  decide

/-- 95_test_vectors row A32. -/
theorem test_cmp_A32 :
    after { home with a := 0x80 } [0xC9, 0x01] (fun t => t.p) = some 0x00 := by
  decide

/-- 95_test_vectors row A33. -/
theorem test_cmp_A33 :
    after { home with a := 0x01 } [0xC9, 0x80] (fun t => t.p) = some 0x81 := by
  decide

/-- 95_test_vectors row G2. -/
theorem test_asl_G2 :
    after { home with a := 0x80 } [0x0A] (fun t => (t.a, t.p)) = some (0x00, 0x03) := by
  decide

/-- 95_test_vectors row G4. -/
theorem test_asl_G4 :
    after { home with flat := [(0x0010, 0xC0)] } [0x06, 0x10] (fun t => (t.p, memRead t 0x0010, memRead t 0x0810)) = some (0x81, 0x80, 0x80) := by
  decide

/-- 95_test_vectors row G5. -/
theorem test_rol_G5 :
    after { home with a := 0x80, p := 0x01 } [0x2A] (fun t => (t.a, t.p)) = some (0x01, 0x01) := by
  decide

/-- 95_test_vectors row G7. -/
theorem test_rol_G7 :
    after { home with p := 0x01, flat := [(0x1234, 0x7F)] } [0x2E, 0x34, 0x12] (fun t => (t.p, memRead t 0x1234, memRead t 0x0234)) = some (0x80, 0xFF, 0xFF) := by
  decide

/-- 95_test_vectors row G8. -/
theorem test_lsr_G8 :
    after { home with a := 0x01, p := 0x80 } [0x4A] (fun t => (t.a, t.p)) = some (0x00, 0x03) := by
  decide

/-- 95_test_vectors row G10. -/
theorem test_lsr_G10 :
    after { home with x := 0xF8, flat := [(0x0008, 0x03)] } [0x56, 0x10] (fun t => (t.p, memRead t 0x0008)) = some (0x01, 0x01) := by
  decide

/-- 95_test_vectors row G11. -/
theorem test_ror_G11 :
    after { home with a := 0x01, p := 0x01 } [0x6A] (fun t => (t.a, t.p)) = some (0x80, 0x81) := by
  decide

/-- 95_test_vectors row G13. -/
theorem test_ror_G13 :
    after { home with x := 0x01, p := 0x01, flat := [(0x0301, 0x02)] } [0x7E, 0x00, 0x03] (fun t => (t.p, memRead t 0x0301)) = some (0x80, 0x81) := by
  decide

/-- 95_test_vectors row G14. -/
theorem test_inc_G14 :
    after { home with p := 0x01, flat := [(0x0010, 0xFF)] } [0xE6, 0x10] (fun t => (t.p, memRead t 0x0010)) = some (0x03, 0x00) := by
  decide

/-- 95_test_vectors row G24. -/
theorem test_inc_G24 :
    faultOf { home with flat := [(0x8100, 0x41)], params := { defaultParams with roEnforce := true } } [0xEE, 0x00, 0x81] = some (.writeProtect 0x8100) := by
  decide

/-- 95_test_vectors row G16. -/
theorem test_dec_G16 :
    after home [0xC6, 0x10] (fun t => (t.p, memRead t 0x0010)) = some (0x80, 0xFF) := by
  decide

/-- 95_test_vectors row G17. -/
theorem test_dec_G17 :
    after { home with x := 0x02, flat := [(0x6002, 0x01)] } [0xDE, 0x00, 0x60] (fun t => (t.p, memRead t 0x6002)) = some (0x02, 0x00) := by
  decide

/-- 95_test_vectors row M4. -/
theorem test_ldx_M4 :
    after { home with y := 0x01, flat := [(0x0000, 0x33), (0x0100, 0x99)] } [0xB6, 0xFF] (fun t => (t.x, t.p)) = some (0x33, 0x00) := by
  decide

/-- 95_test_vectors row G20. -/
theorem test_ldx_G20 :
    after { home with y := 0x34, flat := [(0x1234, 0x01)] } [0xBE, 0x00, 0x12] (fun t => (t.x, t.p)) = some (0x01, 0x00) := by
  decide

/-- 95_test_vectors row G21. -/
theorem test_stx_G21 :
    after { home with x := 0xAA, y := 0xF0 } [0x96, 0x10] (fun t => (t.p, memRead t 0x0000, memRead t 0x0800)) = some (0x00, 0xAA, 0xAA) := by
  decide

/-- 95_test_vectors row G22. -/
theorem test_stx_G22 :
    after { home with p := 0x80 } [0x8E, 0x00, 0x02] (fun t => (t.p, memRead t 0x0200)) = some (0x80, 0x00) := by
  decide

/-- 95_test_vectors row T2. -/
theorem test_bit_T2 :
    after { home with a := 0x01, flat := [(0x0010, 0xC0)] } [0x24, 0x10] (fun t => t.p) = some 0xC2 := by
  decide

/-- 95_test_vectors row T3. -/
theorem test_bit_T3 :
    after { home with a := 0xFF, p := 0xC3, flat := [(0x1234, 0x3F)] } [0x2C, 0x34, 0x12] (fun t => t.p) = some 0x01 := by
  decide

/-- 95_test_vectors row T6. -/
theorem test_ldy_T6 :
    after { home with x := 0x01, flat := [(0x0011, 0xF0)] } [0xB4, 0x10] (fun t => (t.y, t.p)) = some (0xF0, 0x80) := by
  decide

/-- 95_test_vectors row T7. -/
theorem test_ldy_T7 :
    after { home with x := 0x01, flat := [(0x1300, 0x7F)] } [0xBC, 0xFF, 0x12] (fun t => (t.y, t.p)) = some (0x7F, 0x00) := by
  decide

/-- 95_test_vectors row T8. -/
theorem test_sty_T8 :
    after { home with x := 0x01, y := 0x33 } [0x94, 0x20] (fun t => (t.p, memRead t 0x0021, memRead t 0x0821, memRead t 0x1021)) = some (0x00, 0x33, 0x33, 0x33) := by
  decide

/-- 95_test_vectors row T9. -/
theorem test_sty_T9 :
    after { home with y := 0x80, flat := [(0x2800, 0x11)] } [0x8C, 0x00, 0x20] (fun t => (t.p, memRead t 0x2000, memRead t 0x2800)) = some (0x00, 0x80, 0x11) := by
  decide

/-- 95_test_vectors row T10. -/
theorem test_cpy_T10 :
    after { home with y := 0x10 } [0xC0, 0x10] (fun t => t.p) = some 0x03 := by
  decide

/-- 95_test_vectors row T11. -/
theorem test_cpy_T11 :
    after { home with y := 0xFF } [0xC0, 0x01] (fun t => t.p) = some 0x80 := by
  decide

/-- 95_test_vectors row T13. -/
theorem test_cpx_T13 :
    after home [0xE0, 0x80] (fun t => t.p) = some 0x81 := by
  decide

/-- 95_test_vectors row T14. -/
theorem test_cpx_T14 :
    after { home with x := 0x7F, flat := [(0x0010, 0x80)] } [0xE4, 0x10] (fun t => t.p) = some 0x81 := by
  decide

/-- 95_test_vectors row Q1. -/
theorem test_nop_Q1 :
    after { home with a := 0x12, p := 0xC3 } [0xEA] (fun t => (t.pc, t.p)) = some (0x8001, 0xC3) := by
  decide

/-- 95_test_vectors row Q2. -/
theorem test_dop_Q2 :
    after home [0x80, 0xFF] (fun t => (t.pc, t.p)) = some (0x8002, 0x00) := by
  decide

/-- 95_test_vectors row Q3. -/
theorem test_dop_Q3 :
    after { home with flat := [(0x0010, 0x77)] } [0x04, 0x10] (fun t => (t.pc, t.p, memRead t 0x0010)) = some (0x8002, 0x00, 0x77) := by
  decide

/-- 95_test_vectors row Q5. -/
theorem test_inx_Q5 :
    after { home with x := 0x7F, p := 0x41 } [0xE8] (fun t => (t.x, t.p)) = some (0x80, 0xC1) := by
  decide

/-- 95_test_vectors row Q6. -/
theorem test_iny_Q6 :
    after { home with y := 0xFF } [0xC8] (fun t => (t.y, t.p)) = some (0x00, 0x02) := by
  decide

/-- 95_test_vectors row Q7. -/
theorem test_dex_Q7 :
    after home [0xCA] (fun t => (t.x, t.p)) = some (0xFF, 0x80) := by
  decide

/-- 95_test_vectors row Q9. -/
theorem test_dey_Q9 :
    after home [0x88] (fun t => (t.y, t.p)) = some (0xFF, 0x80) := by
  decide

/-- 95_test_vectors row Q11. -/
theorem test_tax_Q11 :
    after { home with a := 0x80, x := 0x01 } [0xAA] (fun t => (t.x, t.p)) = some (0x80, 0x80) := by
  decide

/-- 95_test_vectors row Q12. -/
theorem test_tay_Q12 :
    after { home with y := 0x55 } [0xA8] (fun t => (t.y, t.p)) = some (0x00, 0x02) := by
  decide

/-- 95_test_vectors row Q13. -/
theorem test_txa_Q13 :
    after { home with x := 0x7F } [0x8A] (fun t => (t.a, t.p)) = some (0x7F, 0x00) := by
  decide

/-- 95_test_vectors row Q14. -/
theorem test_tya_Q14 :
    after { home with y := 0xFF } [0x98] (fun t => (t.a, t.p)) = some (0xFF, 0x80) := by
  decide

/-- 95_test_vectors row Q15. -/
theorem test_tsx_Q15 :
    after { home with s := 0xFD } [0xBA] (fun t => (t.x, t.p)) = some (0xFD, 0x80) := by
  decide

/-- 95_test_vectors row Q16. -/
theorem test_txs_Q16 :
    after { home with x := 0xFF, s := 0x00 } [0x9A] (fun t => (t.s, t.p)) = some (0xFF, 0x80) := by
  decide

/-- 95_test_vectors row Q17. -/
theorem test_txs_Q17 :
    after { home with s := 0x80, p := 0x80 } [0x9A] (fun t => (t.s, t.p)) = some (0x00, 0x02) := by
  decide

/-- 95_test_vectors row Q18. -/
theorem test_pha_Q18 :
    after { home with a := 0x42 } [0x48] (fun t => (t.s, t.p, memRead t 0x01FF, memRead t 0x09FF, memRead t 0x11FF)) = some (0xFE, 0x00, 0x42, 0x42, 0x42) := by
  decide

/-- 95_test_vectors row Q19. -/
theorem test_pha_Q19 :
    after { home with a := 0x42, s := 0x00 } [0x48] (fun t => (t.s, t.p, memRead t 0x0100)) = some (0xFF, 0x00, 0x42) := by
  decide

/-- 95_test_vectors row Q20. -/
theorem test_php_Q20 :
    after { home with p := 0x83 } [0x08] (fun t => (t.s, t.p, memRead t 0x01FF)) = some (0xFE, 0x83, 0x83) := by
  decide

/-- 95_test_vectors row Q21. -/
theorem test_pla_Q21 :
    after { home with a := 0x11, s := 0xFE } [0x68] (fun t => (t.a, t.s, t.p)) = some (0x00, 0xFF, 0x02) := by
  decide

/-- 95_test_vectors row Q22. -/
theorem test_pla_Q22 :
    after { home with a := 0x11, flat := [(0x0100, 0x90)] } [0x68] (fun t => (t.a, t.s, t.p)) = some (0x90, 0x00, 0x80) := by
  decide

/-- 95_test_vectors row Q23. -/
theorem test_plp_Q23 :
    after { home with s := 0xFE, flat := [(0x01FF, 0xFF)] } [0x28] (fun t => (t.s, t.p)) = some (0xFF, 0xFF) := by
  decide

/-- 95_test_vectors row Q25. -/
theorem test_clc_Q25 :
    after { home with p := 0xFF } [0x18] (fun t => t.p) = some 0xFE := by
  decide

/-- 95_test_vectors row Q26. -/
theorem test_sec_Q26 :
    after home [0x38] (fun t => t.p) = some 0x01 := by
  decide

/-- 95_test_vectors row Q27. -/
theorem test_cli_Q27 :
    after { home with p := 0xFF } [0x58] (fun t => t.p) = some 0xFB := by
  decide

/-- 95_test_vectors row Q28. -/
theorem test_sei_Q28 :
    after home [0x78] (fun t => t.p) = some 0x04 := by
  decide

/-- 95_test_vectors row Q29. -/
theorem test_clv_Q29 :
    after { home with p := 0xFF } [0xB8] (fun t => t.p) = some 0xBF := by
  decide

/-- 95_test_vectors row Q30. -/
theorem test_cld_Q30 :
    after { home with p := 0xFF } [0xD8] (fun t => t.p) = some 0xF7 := by
  decide

/-- 95_test_vectors row Q31. -/
theorem test_sed_Q31 :
    after home [0xF8] (fun t => t.p) = some 0x08 := by
  decide

/-- 95_test_vectors row F2. -/
theorem test_bpl_F2 :
    after { home with p := 0x80 } [0x10, 0x05] (fun t => t.pc) = some 0x8002 := by
  decide

/-- 95_test_vectors row F1. -/
theorem test_bpl_F1 :
    after home [0x10, 0x05] (fun t => t.pc) = some 0x8007 := by
  decide

/-- 95_test_vectors row F3. -/
theorem test_bmi_F3 :
    after { home with p := 0x80 } [0x30, 0xFC] (fun t => t.pc) = some 0x7FFE := by
  decide

/-- 95_test_vectors row F4. -/
theorem test_bvc_F4 :
    after home [0x50, 0x10] (fun t => t.pc) = some 0x8012 := by
  decide

/-- 95_test_vectors row F5. -/
theorem test_bvs_F5 :
    after home [0x70, 0x10] (fun t => t.pc) = some 0x8002 := by
  decide

/-- 95_test_vectors row F6. -/
theorem test_bvs_F6 :
    after { home with p := 0x40 } [0x70, 0x10] (fun t => t.pc) = some 0x8012 := by
  decide

/-- 95_test_vectors row F7. -/
theorem test_bcc_F7 :
    after { home with pc := 0x80FE } [0x90, 0x02] (fun t => t.pc) = some 0x8102 := by
  decide

/-- 95_test_vectors row F8. -/
theorem test_bcs_F8 :
    after { home with p := 0x01 } [0xB0, 0x7F] (fun t => t.pc) = some 0x8081 := by
  decide

/-- 95_test_vectors row F9. -/
theorem test_bcs_F9 :
    after { home with p := 0x01 } [0xB0, 0x80] (fun t => t.pc) = some 0x7F82 := by
  decide

/-- 95_test_vectors row F10. -/
theorem test_bne_F10 :
    after home [0xD0, 0xFE] (fun t => t.pc) = some 0x8000 := by
  decide

/-- 95_test_vectors row F12. -/
theorem test_beq_F12 :
    after { home with pc := 0xFFFE, p := 0x02 } [0xF0, 0x02] (fun t => t.pc) = some 0x0002 := by
  decide

/-- 95_test_vectors row F13. -/
theorem test_beq_F13 :
    after home [0xF0, 0x02] (fun t => t.pc) = some 0x8002 := by
  decide

/-- 95_test_vectors row F14. -/
theorem test_jmp_F14 :
    after home [0x4C, 0x00, 0x90] (fun t => t.pc) = some 0x9000 := by
  decide

/-- 95_test_vectors row F15. -/
theorem test_jmp_F15 :
    after { home with flat := [(0x1200, 0x99), (0x12FF, 0x34), (0x1300, 0x56)] } [0x6C, 0xFF, 0x12] (fun t => t.pc) = some 0x5634 := by
  decide

/-- 95_test_vectors row F17. -/
theorem test_jsr_F17 :
    after home [0x20, 0x34, 0x12] (fun t => (t.pc, t.s, memRead t 0x01FF, memRead t 0x01FE)) = some (0x1234, 0xFD, 0x02, 0x80) := by
  decide

/-- 95_test_vectors row F18. -/
theorem test_jsr_F18 :
    after { home with pc := 0x80FE, s := 0x00 } [0x20, 0x00, 0x90] (fun t => (t.pc, t.s, memRead t 0x0100, memRead t 0x01FF)) = some (0x9000, 0xFE, 0x00, 0x81) := by
  decide

/-- 95_test_vectors row F19. -/
theorem test_rts_F19 :
    after { home with s := 0xFD, flat := [(0x01FE, 0x80), (0x01FF, 0x02)] } [0x60] (fun t => (t.pc, t.s)) = some (0x8003, 0xFF) := by
  decide

/-- 95_test_vectors row F20. -/
theorem test_rts_F20 :
    after { home with s := 0xFD, flat := [(0x01FE, 0xFF), (0x01FF, 0xFF)] } [0x60] (fun t => (t.pc, t.s)) = some (0x0000, 0xFF) := by
  decide

/-- 95_test_vectors row F21. -/
theorem test_brk_F21 :
    after { home with p := 0x01, flat := [(0xFFFF, 0x90)] } [0x00, 0xEA] (fun t => (t.pc, t.s, t.p, memRead t 0x01FF, memRead t 0x01FE, memRead t 0x01FD)) = some (0x9000, 0xFC, 0x11, 0x02, 0x80, 0x01) := by
  decide

/-- 95_test_vectors row F22. -/
theorem test_brk_F22 :
    after { home with s := 0x01, p := 0xC3, flat := [(0xFFFE, 0x34), (0xFFFF, 0x12)] } [0x00, 0xEA] (fun t => (t.pc, t.s, t.p, memRead t 0x0101, memRead t 0x0100, memRead t 0x01FF)) = some (0x1234, 0xFE, 0xD3, 0x02, 0x80, 0xC3) := by
  decide

/-- 95_test_vectors row F23. -/
theorem test_rti_F23 :
    after { home with s := 0xFC, p := 0x11, flat := [(0x01FD, 0x01), (0x01FE, 0x80), (0x01FF, 0x02)] } [0x40] (fun t => (t.pc, t.s, t.p)) = some (0x8002, 0xFF, 0x01) := by
  decide

/-- 95_test_vectors row F24. -/
theorem test_rti_F24 :
    after { home with s := 0xFE, flat := [(0x0100, 0x12), (0x0101, 0x34), (0x01FF, 0xFF)] } [0x40] (fun t => (t.pc, t.s, t.p)) = some (0x1234, 0x01, 0xFF) := by
  decide

/-- 95_test_vectors row F25. -/
theorem test_kil_F25 :
    after { home with a := 0x55 } [0x02] (fun t => (t.pc, t.err)) = some (0x8001, .locked) := by
  decide

/-- 95_test_vectors row F27. -/
theorem test_unk_F27 :
    after home [0xFF] (fun t => (t.pc, t.err)) = some (0x8001, .unknown) := by
  decide

/-- 95_test_vectors row F28. -/
theorem test_unk_F28 :
    after home [0x1A] (fun t => t.err) = some .unknown := by
  decide

/-! More single steps. -/

/-- 95_test_vectors row F28: one of three addresses, whichever the free value gives. -/
theorem test_unk_pc : after home [0x1A] (fun t => (t.pc == 0x8001) || (t.pc == 0x8002) || (t.pc == 0x8003)) = some true := by
  have h : ∀ k : Fin 3, (((0x8001 : Addr) + BitVec.ofNat 16 k.val == 0x8001) ||
      ((0x8001 : Addr) + BitVec.ofNat 16 k.val == 0x8002) || ((0x8001 : Addr) + BitVec.ofNat 16 k.val == 0x8003)) = true := by
    decide
  exact congrArg some (h _)

/-- 46_dispatch_loop R271, R278: LDA absolute costs 4; a cost above the budget saturates. -/
theorem test_debit :
    after { home with budget := 10 } [0xAD, 0x00, 0x02] (fun t => t.budget) = some 6 ∧
    after { home with budget := 1 } [0xEA] (fun t => t.budget) = some 0 := by decide

/-- 90_conflicts C1: with MIRROR_LIMIT = 0x4000 a store to 0x2345 also writes the four images of 0x0345. -/
theorem test_mirror_limit :
    after { home with a := 0x5A, params := { defaultParams with mirrorLimit := 0x4000 } } [0x8D, 0x45, 0x23]
      (fun t => (memRead t 0x2345, memRead t 0x0345, memRead t 0x1B45)) = some (0x5A, 0x5A, 0x5A) ∧
    after { home with a := 0x5A } [0x8D, 0x45, 0x23] (fun t => (memRead t 0x2345, memRead t 0x0345)) =
      some (0x5A, 0x00) := by decide

/-- 20_memory R67: another expansion-ROM window. -/
theorem test_expansion_window :
    faultOf { home with params := { defaultParams with roEnforce := true, expRomLo := 0x6000, expRomHi := 0x6000, stackUnguarded := by decide } }
      [0x8D, 0x00, 0x60] = some (.writeProtect 0x6000) ∧
    faultOf { home with params := { defaultParams with roEnforce := true, expRomLo := 0x6000, expRomHi := 0x6000, stackUnguarded := by decide } }
      [0x8D, 0x20, 0x40] = none := by decide

/-- 46_dispatch_loop R271: another cost table. -/
theorem test_cost_table :
    after { home with budget := 10, params := { defaultParams with cost := Vector.replicate 256 3 } } [0xEA]
      (fun t => t.budget) = some 7 := by decide

/-- The first step after reset, with an instruction placed where it fetches. -/
theorem test_first_step :
    (match step (State.reset.withFetchWord 16 0x42A9) with | .next t => some t.a | .fault _ | .refused _ => none) = some 0x42 := by
  decide

/-- 95_test_vectors row B1: a run of exactly one NOP. -/
theorem test_run_B1 :
    (match run 3 2 [] (placeInstr home [0xEA, 0xEA, 0xEA]) with
      | .next r => some (r.ended, r.cyclesLeft, r.state.pc)
      | .fault _ | .refused _ => none) = some (.exhausted, 0, 0x8001) := by decide

theorem witness_DecodeUndoesEncode :
    (Instr.lda (.abx 0xFFFF)).hasEncoding defaultSets = true ∧ (Instr.dop 0xF4 0x00).hasEncoding defaultSets = true ∧
    (Instr.unk 0xFF).hasEncoding defaultSets = true ∧ (Instr.unk 0x02).hasEncoding { lock := [], dop := [] } = true ∧
    (Instr.kil 0xEA).hasEncoding { lock := [0xEA], dop := [] } = true := by decide

theorem witness_EncodeUndoesDecode : decode defaultSets [0x6C, 0xFF, 0x12, 0x00] = .ok (.jmp (.ind 0x12FF), [0x00]) := by decide

theorem witness_LockDopAndUnknownBytes :
    decodeOp defaultSets 0x02 0 0 = .kil 0x02 ∧ decodeOp defaultSets 0xF2 0 0 = .kil 0xF2 ∧
    decodeOp defaultSets 0x04 7 0 = .dop 0x04 7 ∧ decodeOp defaultSets 0xF4 7 0 = .dop 0xF4 7 ∧
    decodeOp defaultSets 0x03 0 0 = .unk 0x03 ∧ decodeOp defaultSets 0xFF 0 0 = .unk 0xFF ∧
    decodeOp defaultSets 0xFC 0 0 = .unk 0xFC ∧ decodeOp { lock := [0x04], dop := [0x04] } 0x04 7 0 = .kil 0x04 := by decide

theorem witness_ShortBytesAreRefused :
    decode defaultSets [0xAD] = .error (.truncated 0xAD) ∧ ([] : List Byte).length < (decodeOp defaultSets 0xAD 0 0).operandBytes ∧
    ¬ [(0 : Byte), 0].length < (decodeOp defaultSets 0xAD 0 0).operandBytes := by decide

/-- The same state with RO_ENFORCE on. -/
def guardedHome : State := { home with params := { defaultParams with roEnforce := true } }

/-- RO_ENFORCE on: both ends of both guarded ranges, and the addresses next to them. -/
theorem witness_MemWriteFollowsThePolicies :
    (∀ a ∈ [(0x8000 : Addr), 0xFFFF, 0x4020, 0x5FFF],
      guardedHome.params.roEnforce = true ∧ (0x8000 ≤ a.toNat ∨
        (guardedHome.params.expRomLo.toNat ≤ a.toNat ∧ a.toNat ≤ guardedHome.params.expRomHi.toNat))) ∧
    (∀ a ∈ [(0x7FFF : Addr), 0x6000, 0x401F, 0x0000],
      ¬ (guardedHome.params.roEnforce = true ∧ (0x8000 ≤ a.toNat ∨
        (guardedHome.params.expRomLo.toNat ≤ a.toNat ∧ a.toNat ≤ guardedHome.params.expRomHi.toNat)))) := by
  simp only [List.forall_mem_cons, List.not_mem_nil, false_imp_iff, implies_true, and_true]
  decide

/-- The cells of a store at both ends of the mirrored range, and none beyond it. -/
theorem witness_MemWriteFollowsThePolicies_images :
    home.storedCells 0x1FFF = [.flat 0x1FFF, .flat 0x07FF, .flat 0x0FFF, .flat 0x17FF, .flat 0x1FFF] ∧
    home.storedCells 0x2000 = [.flat 0x2000] ∧
    ({ home with params := { defaultParams with mirror := false } }).storedCells 0x0000 = [.flat 0x0000] := by decide

theorem witness_StoreIsVisibleAtTheFourImages :
    home.identityMap ∧ ∀ a ∈ [(0x0000 : Addr), 0x1FFF, 0x2000, 0xFFFF], home.writeProtected a = false := by
  simp only [List.forall_mem_cons, List.not_mem_nil, false_imp_iff, implies_true, and_true]
  decide

theorem witness_CanonicalMemoryIsItsReads :
    Memory.wf [(0, 1), (65535, 2)] ∧ ∀ n, Memory.read [(0, 1), (65535, 2)] n = Memory.read [(0, 1), (65535, 2)] n :=
  ⟨by decide, fun _ => rfl⟩

theorem witness_StoreInstructions :
    guardedHome.writeProtected (ea (.abs 0x7FFF) guardedHome) = false ∧
    guardedHome.writeProtected (ea (.abs 0x8000) guardedHome) = true ∧
    home.writeProtected (ea (.imm 0) home) = false := by decide

theorem witness_LeftShifts_RightShifts_MemoryIncrementDecrement :
    guardedHome.writeProtected (ea (.abs 0x6000) guardedHome) = false ∧
    guardedHome.writeProtected (ea (.abs 0x5FFF) guardedHome) = true := by decide

/-- Every branch both ways. -/
theorem witness_Branches :
    ∀ x ∈ [(Flag.n, false), (.n, true), (.v, false), (.v, true), (.c, false), (.c, true), (.z, false), (.z, true)],
      (flagOf 0x00 x.1 = x.2 ∧ flagOf 0xFF x.1 ≠ x.2) ∨ (flagOf 0xFF x.1 = x.2 ∧ flagOf 0x00 x.1 ≠ x.2) := by decide

/-- RO_ENFORCE on with a window that ends just below the stack page. -/
def guardedBelowStack : State :=
  { home with params := { defaultParams with
      roEnforce := true, expRomLo := 0x0000, expRomHi := 0x00FF, stackUnguarded := by decide } }

/-- RO_ENFORCE on with a window that starts just above the stack page. -/
def guardedAboveStack : State :=
  { home with params := { defaultParams with
      roEnforce := true, expRomLo := 0x0200, expRomHi := 0x7FFF, stackUnguarded := by decide } }

/-- With everything else guarded PHA, PHP, JSR and BRK raise no exception at either end of the stack page (44_single_byte
R220, R221; 45_control_flow R252, R256), and a store beside it does (20_memory R67). -/
theorem test_push_is_never_guarded :
    after guardedAboveStack [0x48] (fun t => (t.s, t.pc)) = some (0xFE, 0x8001) ∧
    after { guardedBelowStack with s := 0x00 } [0x08] (fun t => (t.s, t.pc)) = some (0xFF, 0x8001) ∧
    after guardedAboveStack [0x20, 0x34, 0x12] (fun t => (t.s, t.pc, memRead t 0x01FE)) = some (0xFD, 0x1234, 0x80) ∧
    after { guardedBelowStack with s := 0x01 } [0x00] (fun t => (t.s, memRead t 0x0101)) = some (0xFE, 0x02) ∧
    faultOf guardedAboveStack [0x8D, 0x00, 0x02] = some (.writeProtect 0x0200) ∧
    faultOf guardedBelowStack [0x85, 0xFF] = some (.writeProtect 0x00FF) := by decide

/-- A cell that no push of JSR or BRK reaches: page two, and page one below the bytes pushed. -/
theorem witness_SubroutineCall_BreakEntry :
    ∀ b ∈ [(0x0200 : Addr), 0x0100, 0x01FC], ∀ k ∈ [(0 : Byte), 1, 2],
      home.cellOf b ∉ home.storedCells (stackAddr (home.s - k)) := by
  simp only [List.forall_mem_cons, List.not_mem_nil, false_imp_iff, implies_true, and_true]
  decide

theorem witness_UnknownOpcodeLatches :
    (0xFF : Byte).toNat % 4 = 3 ∧ (0x03 : Byte).toNat % 4 = 3 ∧ (0x1A : Byte).toNat % 4 ≠ 3 := by decide

theorem witness_StepRunsTheDecodedInstruction :
    let s := placeInstr home [0xAD, 0x34, 0x12]
    s.err = .none ∧
    decode s.params.sets [memRead s s.pc, memRead s (s.pc + 1), memRead s (s.pc + 2)] = .ok (.lda (.abs 0x1234), []) := by decide

theorem witness_LatchedErrorStopsStepsAndRuns :
    (latchLocked home).err = .locked ∧ (latchUnknown home 0xFF).err = .unknown := by decide

theorem witness_OnlyWriteProtectStopsAStep :
    home.err = .none ∧ home.params.roEnforce = false ∧
    faultOf guardedHome [0x8D, 0x00, 0x80] = some (.writeProtect 0x8000) := by decide

theorem witness_StepIgnoresBudgetAndStop :
    (∃ t, step home = .next t) ∧ step (latchLocked home) = .fault .haltedLocked :=
  ⟨⟨_, rfl⟩, rfl⟩

theorem witness_CostsAreAtLeastTwo :
    latches (decodeOp defaultSets 0xEA 0 0) = none ∧ latches (decodeOp defaultSets 0x02 0 0) ≠ none ∧ latches (decodeOp defaultSets 0xFF 0 0) ≠ none := by decide

/-- The reset state meets the mapper's invariant. -/
theorem reset_inv : State.reset.Inv where
  flat_wf := Memory.wf_nil
  flat_size := by decide
  banks_wf := Memory.wf_nil
  banks_size := by decide
  entries := by intro i; fin_cases i <;> exact trivial
  low_slots := by decide

theorem witness_StepKeepsTheMapperInvariant : State.reset.Inv ∧ ∃ t, step State.reset = .next t := ⟨reset_inv, _, rfl⟩

/-- The reset state's images agree. -/
theorem reset_images_agree : State.reset.ImagesAgree where
  mirror := rfl
  limit := by decide
  low_private := ⟨rfl, rfl, by decide⟩
  images := fun _ _ _ _ => rfl

theorem witness_StepKeepsTheImagesEqual : State.reset.ImagesAgree ∧ ∃ t, step State.reset = .next t :=
  ⟨reset_images_agree, _, rfl⟩

theorem witness_OnlyListedFlagsChange :
    (∃ t, exec (.adc (.imm 1)) home = .next t) ∧ Flag.d ∉ flagsWritten (.adc (.imm 1)) ∧ Flag.i ∉ flagsWritten .brk :=
  ⟨⟨_, rfl⟩, by decide⟩

theorem witness_OnlyListedRegistersChange :
    (∃ t, exec (.cmp (.imm 1)) home = .next t) ∧ writesA (.cmp (.imm 1)) = false ∧ writesX .txs = false ∧
    writesY .tya = false ∧ writesS .tsx = false :=
  ⟨⟨_, rfl⟩, by decide⟩

theorem witness_ExactCostRunsOneInstruction :
    let s := placeInstr home [0xEA]
    1 < 2 ∧ s.err = .none ∧ s.stop = false ∧ 0 < s.cycleCost (memRead s s.pc) ∧
    ∃ t, step { s with budget := s.cycleCost (memRead s s.pc) } = .next t :=
  ⟨by decide, rfl, rfl, by decide, _, rfl⟩

/-- A table of ones, under which every Run ends. -/
theorem witness_EveryRunEnds :
    ({ defaultParams with cost := Vector.replicate 256 1 }).costsPositive ∧ 10 < 11 ∧
    ∀ r, run 1 0 [] home = .next r → r.ended ≠ .unfinished := by
  refine ⟨fun op b1 b2 _ => ?_, by decide, fun r h => ?_⟩
  · simp [Params.costOf]
  · cases h
    decide

theorem witness_LockOpcodeEndsTheRun :
    let s := placeInstr home [0x02]
    1 < 2 ∧ s.err = .none ∧ s.stop = false ∧ 0 < 1 ∧ memRead s s.pc ∈ s.params.sets.lock := by decide

theorem witness_PendingStopEndsTheRun : 0 < 1 ∧ home.err = .none ∧ 0 < 1 := by decide

/-- A mapper of three banks, bank 2 in the high window. -/
def threeBanks : State :=
  { home with bankCount := 3, pt := #v[.flat 0, .flat 1, .flat 2, .flat 3, .flat 4, .flat 5, .flat 6, .flat 7,
      .bank 0 0, .bank 0 1, .bank 0 2, .bank 0 3, .bank 2 0, .bank 2 1, .bank 2 2, .bank 2 3] }

theorem threeBanks_inv : threeBanks.Inv where
  flat_wf := Memory.wf_nil
  flat_size := by decide
  banks_wf := Memory.wf_nil
  banks_size := by decide
  entries := by
    intro i
    fin_cases i <;> first | exact trivial | exact (by decide : (0 : Nat) < 3) | exact (by decide : (2 : Nat) < 3)
  low_slots := by decide

/-- Bank counts two and three, the last bank and the one past it, the edges of both windows. -/
theorem witness_SwitchBankMapsOneWindow :
    (2 < threeBanks.bankCount ∧ 2 < threeBanks.bankCount ∧ threeBanks.bankCount ≤ 3) ∧ home.bankCount ≤ 2 ∧
    (∀ i ∈ [(8 : Fin 16), 11], 8 ≤ i.val ∧ i.val < 12) ∧ (∀ i ∈ [(12 : Fin 16), 15], 12 ≤ i.val) := by decide

theorem witness_SwitchBankKeepsTheInvariant :
    threeBanks.Inv ∧ ∃ t, switchBank threeBanks 1 .low = .next t := ⟨threeBanks_inv, _, rfl⟩

/-- The places of the device cells as the family has them; every other parameter empty. -/
def sampleParams : LoadParams :=
  { initMem := [], joy1Addr := 0x4000, joy2Addr := 0x4017, joyIdle := 0x40, sndEnAddr := 0x401F, sndEnValue := 0x0F,
    initPtHi := Vector.replicate 8 (.bank 0 0), reservedMask1 := 0, reservedMask2 := 0 }

/-- An image with `n` PRG banks in its header and `len` bytes after it, all of them 0xEA. -/
def sampleImage (n : Byte) (len : Nat) : List Byte :=
  [0x4E, 0x45, 0x53, 0x1A, n, 1, 0, 0, 1, 0, 0, 0, 0, 0, 0, 0] ++ List.replicate len 0xEA

/-- Such an image is accepted when it is long enough and has a bank. -/
theorem sampleImage_loads (n : Byte) (len : Nat) (hn : n ≠ 0) (hl : 24576 ≤ len) :
    ∃ m, load sampleParams (sampleImage n len) = .ok m := by
  refine ⟨buildMapper sampleParams (prgBanks (sampleImage n len)) (prgData (sampleImage n len)), ?_⟩
  have hlen : ¬ (sampleImage n len).length < leastImageSize := by
    simp [sampleImage, leastImageSize]; omega
  have hp : prgBanks (sampleImage n len) ≠ 0 := fun h => hn (BitVec.eq_of_toNat_eq h)
  have h0 : failedChecks sampleParams (sampleImage n len) = [] := by
    simp [failedChecks, sampleImage, headerByte, sampleParams, nes20, mapperNumber]
    exact if_neg hp
  simp [load, badRomReasons, hlen, h0]

/-- Hypotheses of SmallImageIsPlaced, LargeImageKeepsItsBanks and LoadedSessionMeetsTheInvariant: images of one, two and three
banks that load, INIT_MEM and INIT_PT_HI as they must be. -/
theorem witness_loaded_images :
    (∃ m, load sampleParams (sampleImage 1 24576) = .ok m) ∧ (∃ m, load sampleParams (sampleImage 2 32768) = .ok m) ∧
    (∃ m, load sampleParams (sampleImage 3 49152) = .ok m) ∧
    ((1 : Byte).toNat ≤ 2 ∧ (2 : Byte).toNat ≤ 2 ∧ 2 < (3 : Byte).toNat) ∧
    Memory.wf sampleParams.initMem ∧ Memory.below sampleParams.initMem 65536 ∧
    (∀ i, (sampleParams.initPtHi.get i).valid 3) :=
  ⟨sampleImage_loads 1 _ (by decide) (by decide), sampleImage_loads 2 _ (by decide) (by decide),
    sampleImage_loads 3 _ (by decide) (by decide), by decide, by decide, by decide,
    fun i => by fin_cases i <;> exact (by decide : 0 < 3)⟩

/-- Each clause's edge addresses, the device cells at both ends of the second window, and a case in which they differ. -/
theorem witness_SmallImageIsPlaced_edges :
    (∀ a ∈ [(0x8000 : Addr), 0xFFFF, 0x1FFF, 0x4020, 0x7FFF, 0x2000, 0x401E],
      a ∉ [sampleParams.joy1Addr, sampleParams.joy2Addr, sampleParams.sndEnAddr]) ∧
    (∀ a ∈ [(0x8000 : Addr), 0xFFFF], 0x8000 ≤ a.toNat) ∧
    (∀ a ∈ [(0x1FFF : Addr), 0x4020, 0x7FFF], a.toNat < 0x2000 ∨ (0x4020 ≤ a.toNat ∧ a.toNat < 0x8000)) ∧
    sampleParams.sndEnAddr ≠ sampleParams.joy1Addr ∧ sampleParams.sndEnAddr ≠ sampleParams.joy2Addr := by
  simp [sampleParams]

/-- The last bank's last byte, and the indexes at the edges of the I/O windows. -/
theorem witness_LargeImageKeepsItsBanks :
    (2 < 3 ∧ 16383 < 16384) ∧ ∀ n ∈ [0x1FFF, 0x4020, 0xFFFF],
      n ∉ [sampleParams.joy1Addr.toNat, sampleParams.joy2Addr.toNat, sampleParams.sndEnAddr.toNat] ∧
      (n < 0x2000 ∨ 0x4020 ≤ n) := by
  simp [sampleParams]

/-- The two lengths at the limit; a longer image of zeros is rejected for other reasons. -/
theorem witness_LoadAcceptsOrRejects :
    (List.replicate 24591 (0 : Byte)).length < 24592 ∧ 24592 ≤ (List.replicate 24592 (0 : Byte)).length ∧
    ∃ reasons, load sampleParams (List.replicate 24592 0) = .error reasons := by
  refine ⟨by rw [List.length_replicate]; decide, by rw [List.length_replicate], [.badTag, .noPrgBanks], ?_⟩
  unfold load badRomReasons
  rw [if_neg (by rw [List.length_replicate]; decide)]
  rfl

end Sys2Proof.Tests
end

section
/-! Which flags an instruction can change (10_state R31 to R39): what each flag operation keeps, what each shared shape
leaves in P, and from these every arm of `exec`. -/

namespace Sys2Proof.Machine

/-- Every flag outside `fs` has the same value in `q` as in `p`. -/
def FlagsChangeOnly (fs : List Flag) (p q : Byte) : Prop := ∀ f, f ∉ fs → flagOf q f = flagOf p f

namespace FlagsChangeOnly

theorem of_eq {fs : List Flag} {p q : Byte} (h : q = p) : FlagsChangeOnly fs p q := fun _ _ => h ▸ rfl

/-- A write to a listed flag goes on keeping the others. -/
theorem write {fs : List Flag} {p q : Byte} {f : Flag} (h : FlagsChangeOnly fs p q) (hf : f ∈ fs) (b : Bool) :
    FlagsChangeOnly fs p (withFlag q f b) := by
  intro k hk
  have hne : f ≠ k := fun e => hk (e ▸ hf)
  rw [flagOf_withFlag, if_neg hne, h k hk]

/-- `SetNZ` goes on keeping the others where N and Z are listed. -/
theorem writeNZ {fs : List Flag} {p q : Byte} (h : FlagsChangeOnly fs p q) (hn : .n ∈ fs) (hz : .z ∈ fs) (v : Byte) :
    FlagsChangeOnly fs p (setNZ q v) :=
  (h.write hn _).write hz _

/-- With all eight flags listed nothing is claimed. -/
theorem all (p q : Byte) : FlagsChangeOnly [.c, .z, .i, .d, .b, .g, .v, .n] p q := by
  intro f hf
  cases f <;> simp at hf

end FlagsChangeOnly

/-! The flag operations. -/

theorem withFlag_flags (p : Byte) (f : Flag) (b : Bool) : FlagsChangeOnly [f] p (withFlag p f b) :=
  (FlagsChangeOnly.of_eq rfl).write (by simp) b

theorem setNZ_flags (p v : Byte) : FlagsChangeOnly [.n, .z] p (setNZ p v) :=
  (FlagsChangeOnly.of_eq rfl).writeNZ (by simp) (by simp) v

theorem setCNZ_flags (p v : Byte) (c : Bool) : FlagsChangeOnly [.c, .n, .z] p (setCNZ p c v) :=
  ((FlagsChangeOnly.of_eq rfl).write (by simp) c).writeNZ (by simp) (by simp) v

theorem aluAdd_flags (r v p : Byte) : FlagsChangeOnly [.c, .v, .n, .z] p (aluAdd r v p).2 :=
  (((FlagsChangeOnly.of_eq rfl).write (by simp) _).write (by simp) _).writeNZ (by simp) (by simp) _

theorem aluBit_flags (r v p : Byte) : FlagsChangeOnly [.z, .n, .v] p (aluBit r v p) :=
  (((FlagsChangeOnly.of_eq rfl).write (by simp) _).write (by simp) _).write (by simp) _

/-! What the shared shapes leave in P. -/

theorem aluInto_p {r f m s t} (h : aluInto r f m s = .next t) : t.p = (f (s.reg r) (operand m s) s.p).2 := by
  cases h; simp

theorem aluTest_p {r f m s t} (h : aluTest r f m s = .next t) : t.p = f (s.reg r) (operand m s) s.p := by
  cases h; simp

theorem loadReg_p {r m s t} (h : loadReg r m s = .next t) : t.p = setNZ s.p (operand m s) := by
  cases h; simp [aluLoad]

theorem transfer_p {src dst s t} (h : transfer src dst s = .next t) : t.p = setNZ s.p (s.reg src) := by
  cases h; simp [aluLoad]

theorem modifyReg_p {r f s t} (h : modifyReg r f s = .next t) : t.p = (f (s.reg r) s.p).2 := by
  cases h; simp

theorem writeFlag_p {f b s t} (h : writeFlag f b s = .next t) : t.p = withFlag s.p f b := by
  cases h; simp

theorem branch_p {c d s t} (h : branch c d s = .next t) : t.p = s.p := by
  cases h
  cases c <;> simp

theorem push_p {s t v} (h : push s v = .next t) : t.p = s.p := by
  rw [push_eq] at h
  cases h; simp

theorem memWrite_p {s t a v} (h : memWrite s a v = .next t) : t.p = s.p := by
  rw [memWrite_eq] at h
  split at h
  · cases h
  · cases h; simp

theorem storeReg_p {r m s t} (h : storeReg r m s = .next t) : t.p = s.p :=
  memWrite_p (s := skipOperand m s) h

theorem modifyMem_p {f m s t} (h : modifyMem f m s = .next t) : t.p = (f (memRead s (ea m s)) s.p).2 :=
  memWrite_p (s := (skipOperand m s).setP _) h

/-- Both operand forms of a shift change the flags that its operation changes. -/
theorem modifyTarget_flags {fs f g s t} (h : modifyTarget f g s = .next t)
    (hf : ∀ v p, FlagsChangeOnly fs p (f v p).2) : FlagsChangeOnly fs s.p t.p := by
  cases g with
  | acc => exact modifyReg_p h ▸ hf _ _
  | mem m => exact modifyMem_p h ▸ hf _ _

/-- Latching an unknown opcode writes G and no other flag (45_control_flow R262). -/
theorem latchUnknown_p (s : State) (op : Byte) :
    (latchUnknown s op).p = withFlag s.p .g (Config.freeDebug s.draws) := by
  unfold latchUnknown
  split <;> simp

/-! Every instruction. -/

/-- Every arm of `exec` changes the flags its instruction's rule lists and no others. -/
theorem exec_flags {i : Instr} {s t : State} (h : exec i s = .next t) :
    FlagsChangeOnly (flagsWritten i) s.p t.p := by
  cases i with
  | ora m | and m | eor m => exact aluInto_p h ▸ setNZ_flags _ _
  | adc m | sbc m => exact aluInto_p h ▸ aluAdd_flags _ _ _
  | cmp m | cpx m | cpy m => exact aluTest_p h ▸ setCNZ_flags _ _ _
  | bit m => exact aluTest_p h ▸ aluBit_flags _ _ _
  | lda m | ldx m | ldy m => exact loadReg_p h ▸ setNZ_flags _ _
  | sta m | stx m | sty m => exact .of_eq (storeReg_p h)
  | asl g | rol g | lsr g | ror g => exact modifyTarget_flags h fun _ _ => setCNZ_flags _ _ _
  | inc m | dec m => exact modifyMem_p h ▸ setNZ_flags _ _
  | inx | iny | dex | dey => exact modifyReg_p h ▸ setNZ_flags _ _
  | tax | tay | txa | tya | tsx | txs => exact transfer_p h ▸ setNZ_flags _ _
  | clc | sec | cli | sei | clv | cld | sed => exact writeFlag_p h ▸ withFlag_flags _ _ _
  | pha | php => exact .of_eq (push_p h)
  | pla => cases h; exact setNZ_flags _ _
  | plp | rti => exact .all _ _
  | bpl d | bmi d | bvc d | bvs d | bcc d | bcs d | bne d | beq d => exact .of_eq (branch_p h)
  | jmp g => cases g <;> (cases h; exact .of_eq rfl)
  | jsr a =>
    rw [execJsr_eq] at h
    cases h
    exact .of_eq (by simp)
  | brk =>
    rw [execBrk_eq] at h
    cases h
    simpa [flagsWritten] using withFlag_flags s.p .b true
  | unk op =>
    cases h
    exact latchUnknown_p s op ▸ withFlag_flags _ _ _
  | nop | dop op d | rts | kil op => cases h; exact .of_eq rfl

/-- Settles O49: an instruction changes only the flags of its list, by the case of its arm in `exec_flags`. -/
theorem onlyListedFlagsChange : Obligations.OnlyListedFlagsChange :=
  fun _ _ _ h => exec_flags h

end Sys2Proof.Machine
end

section
/-! Reads in numbers (20_memory R61): the page slot and offset of an address as quotient and remainder by the page size, and
the cell of an address when every slot is flat and in place. -/

namespace Sys2Proof.Machine

theorem pageSlot_eq_ofNat (a : Addr) : pageSlot a = Fin.ofNat 16 (a.toNat / 4096) := by
  have hlt : a.toNat / 4096 < 16 := pageSlot_val a ▸ (pageSlot a).isLt
  exact Fin.ext ((pageSlot_val a).trans (Nat.mod_eq_of_lt hlt).symm)

theorem State.cellOf_eq (s : State) (a : Addr) :
    s.cellOf a = (s.pt.get (Fin.ofNat 16 (a.toNat / 4096))).cell (a.toNat % 4096) := by
  rw [State.cellOf, pageSlot_eq_ofNat, pageOffset_val]

@[simp] theorem identityPageTable_get (i : Fin 16) : identityPageTable.get i = .flat i := by
  revert i
  decide

/-- `Cell(a) = FLAT[a]`: page number and offset put together are the address again. -/
theorem State.cellOf_of_identityMap {s : State} (h : s.identityMap) (a : Addr) : s.cellOf a = .flat a.toNat := by
  rw [State.cellOf, h, identityPageTable_get, PageEntry.cell, pageSlot_val, pageOffset_val, Nat.div_add_mod']

/-- Settles O6: by the kind of the page entry in `State.cellOf_eq`, and by `State.cellOf_of_identityMap`. -/
theorem readGoesThroughThePageTable : Obligations.ReadGoesThroughThePageTable := by
  intro s a
  constructor
  · rw [memRead, State.cellOf_eq]
    cases s.pt.get (Fin.ofNat 16 (a.toNat / 4096)) with
    | flat i => rfl
    | bank k q => exact congrArg (Memory.read s.banks) (Nat.add_assoc ..)
  · intro h
    rw [memRead, State.cellOf_of_identityMap h, State.readCell]

end Sys2Proof.Machine
end

section
/-! ORA, AND, EOR, the loads and the stores (41_alu_group1 R152 to R156, R161): the state each shared shape answers,
written out field by field, the flags of `SetNZ`, and what a write of one byte does to the storages. -/

namespace Sys2Proof.Machine

theorem flagsNZ_setNZ (p v : Byte) : FlagsNZ p (setNZ p v) v := by
  refine ⟨?_, ?_, fun f hn hz => ?_⟩
  · simp [BitVec.msb_eq_getLsbD_last]
  · simp [BitVec.toNat_eq, beq_eq_decide]
  · rw [flagOf_setNZ, if_neg hz, if_neg hn]

/-- The accumulator's shape: PC past the operand, the result in A, its status word in P, and nothing else. -/
theorem aluInto_a_eq (f : Byte → Byte → Byte → AluOut) (m : Mode) (s : State) :
    aluInto .a f m s = .next { s with
      pc := afterOperand m s, a := (f s.a (operand m s) s.p).1, p := (f s.a (operand m s) s.p).2 } := rfl

/-- Settles O12: the map's cells by evaluation; each of the three is `aluInto` on A, with `SetNZ` of its result. -/
theorem logicInstructions : Obligations.LogicInstructions := by
  refine ⟨fun _ _ => rfl, fun _ _ => rfl, fun _ _ => rfl, fun m s => ⟨?ora, ?and, ?eor⟩⟩
  case ora => exact ⟨_, aluInto_a_eq aluOr m s, flagsNZ_setNZ _ _⟩
  case and => exact ⟨_, aluInto_a_eq aluAnd m s, flagsNZ_setNZ _ _⟩
  case eor => exact ⟨_, aluInto_a_eq aluXor m s, flagsNZ_setNZ _ _⟩

/-- The load's shape: PC past the operand, the operand byte in the register, N and Z from it. -/
theorem loadReg_eq (r : Reg) (m : Mode) (s : State) :
    loadReg r m s = .next
      (State.setReg { s with pc := afterOperand m s, p := setNZ s.p (operand m s) } r (operand m s)) := by
  cases r <;> rfl

/-- Settles O13: the map's cells by evaluation; each of the three is `loadReg` on its register, and all
leave the same status word. -/
theorem loadInstructions : Obligations.LoadInstructions :=
  ⟨fun _ _ => rfl, fun _ _ => rfl, fun _ _ => rfl, fun m s =>
    ⟨setNZ s.p (operand m s), flagsNZ_setNZ _ _, loadReg_eq .a m s, loadReg_eq .x m s, loadReg_eq .y m s⟩⟩

theorem storedAt_memStore (s : State) (a : Addr) (v : Byte) : StoredAt s (memStore s a v) a v := by
  refine ⟨State.readCell_memStore s a v, fun b => memRead_memStore s a b v, ?_⟩
  obtain ⟨flat, banks, h⟩ := memStore_keeps s a v
  rw [h]

/-- `MemWrite` to an address that is not protected stores the byte there. -/
theorem memWrite_storedAt {s : State} {a : Addr} {v : Byte} (h : s.writeProtected a = false) :
    ∃ t, memWrite s a v = .next t ∧ StoredAt s t a v :=
  ⟨_, memWrite_next h, storedAt_memStore s a v⟩

theorem memWrite_fault {s : State} {a : Addr} {v : Byte} (h : s.writeProtected a = true) :
    memWrite s a v = .fault (.writeProtect a) := by
  rw [memWrite_eq, if_pos h]

/-- The store's shape: the write of the register at the effective address, in the state with PC past the operand. -/
theorem storeReg_eq (r : Reg) (m : Mode) (s : State) :
    storeReg r m s = memWrite { s with pc := afterOperand m s } (ea m s) (s.reg r) := rfl

/-- What a store does is what its write does: protection does not depend on PC. -/
theorem storeReg_storesOrFaults (r : Reg) (m : Mode) (s : State) :
    (s.writeProtected (ea m s) = false →
      ∃ t, storeReg r m s = .next t ∧ StoredAt { s with pc := afterOperand m s } t (ea m s) (s.reg r)) ∧
    (s.writeProtected (ea m s) = true → storeReg r m s = .fault (.writeProtect (ea m s))) := by
  rw [storeReg_eq]
  exact ⟨fun h => memWrite_storedAt h, fun h => memWrite_fault h⟩

/-- Settles O18: the map's cells by evaluation; each of the three is `storeReg` of its register. -/
theorem storeInstructions : Obligations.StoreInstructions := by
  refine ⟨fun _ _ => rfl, fun _ _ => rfl, fun _ _ => rfl, fun m s x hx => ?_⟩
  simp only [List.mem_cons, List.not_mem_nil, or_false] at hx
  obtain rfl | rfl | rfl := hx
  · exact storeReg_storesOrFaults .a m s
  · exact storeReg_storesOrFaults .x m s
  · exact storeReg_storesOrFaults .y m s

end Sys2Proof.Machine
end

section
/-! The single-byte index increments and decrements, and the flag instructions (44_single_byte R202 to R205, R229 to R236):
the result as a number, and what the shared shape of each group answers. -/

namespace Sys2Proof.Machine

theorem toNat_inc (v : Byte) : (v + 1).toNat = (v.toNat + 1) % 256 := BitVec.toNat_add v 1

/-- One less modulo 256 is 255 more modulo 256. -/
theorem toNat_dec (v : Byte) : (v - 1).toNat = (v.toNat + 255) % 256 := by
  rw [BitVec.toNat_sub, Nat.add_comm]
  rfl

/-- The register's shape: the result in the register, its status word in P, and nothing else. -/
theorem modifyReg_eq (r : Reg) (f : Byte → Byte → AluOut) (s : State) :
    modifyReg r f s = .next (State.setReg { s with p := (f (s.reg r) s.p).2 } r (f (s.reg r) s.p).1) := by
  cases r <;> rfl

theorem modifyReg_increments (r : Reg) (s : State) :
    ∃ v q, modifyReg r aluInc s = .next (State.setReg { s with p := q } r v) ∧
      v.toNat = ((s.reg r).toNat + 1) % 256 ∧ FlagsNZ s.p q v :=
  ⟨_, _, modifyReg_eq r aluInc s, toNat_inc _, flagsNZ_setNZ _ _⟩

theorem modifyReg_decrements (r : Reg) (s : State) :
    ∃ v q, modifyReg r aluDec s = .next (State.setReg { s with p := q } r v) ∧
      v.toNat = ((s.reg r).toNat + 255) % 256 ∧ FlagsNZ s.p q v :=
  ⟨_, _, modifyReg_eq r aluDec s, toNat_dec _, flagsNZ_setNZ _ _⟩

/-- Settles O25: the map's cells by evaluation; each of the four is `modifyReg` of X or Y with the increment or the
decrement. -/
theorem indexIncrementDecrement : Obligations.IndexIncrementDecrement := by
  refine ⟨fun _ _ => rfl, fun s => ⟨?inx, ?iny, ?dex, ?dey⟩⟩
  case inx => exact modifyReg_increments .x s
  case iny => exact modifyReg_increments .y s
  case dex => exact modifyReg_decrements .x s
  case dey => exact modifyReg_decrements .y s

theorem flagOnly_withFlag (p : Byte) (f : Flag) (b : Bool) : FlagOnly p (withFlag p f b) f b := by
  refine ⟨?_, fun k hk => ?_⟩
  · rw [flagOf_withFlag, if_pos rfl]
  · rw [flagOf_withFlag, if_neg hk.symm]

/-- The flag write's shape: one flag of P, and nothing else. -/
theorem writeFlag_writesOne (f : Flag) (b : Bool) (s : State) :
    ∃ q, writeFlag f b s = .next { s with p := q } ∧ FlagOnly s.p q f b :=
  ⟨withFlag s.p f b, rfl, flagOnly_withFlag s.p f b⟩

/-- Settles O30: the map's cells by evaluation; each of the seven is `writeFlag` of its flag and value. -/
theorem flagInstructions : Obligations.FlagInstructions := by
  refine ⟨fun _ _ => rfl, fun s x hx => ?_⟩
  simp only [List.mem_cons, List.not_mem_nil, or_false] at hx
  obtain rfl | rfl | rfl | rfl | rfl | rfl | rfl := hx
  · exact writeFlag_writesOne .c false s
  · exact writeFlag_writesOne .c true s
  · exact writeFlag_writesOne .i false s
  · exact writeFlag_writesOne .i true s
  · exact writeFlag_writesOne .v false s
  · exact writeFlag_writesOne .d false s
  · exact writeFlag_writesOne .d true s

end Sys2Proof.Machine
end

section
/-! Branches and jumps (45_control_flow R241 to R251): the branch target in numbers, and what the branch's shape answers
from the condition alone. -/

namespace Sys2Proof.Machine

/-- The branch target in numbers: the operand byte counts as signed, the sum is modulo 65536. -/
theorem toNat_branchTarget (pc : Addr) (d : Byte) :
    ((pc + 1 + sext d).toNat : Int) = (pc.toNat + 1 + d.toInt) % 65536 := by
  have hd : ((sext d).toNat : Int) = d.toInt % 65536 := by
    rw [sext, BitVec.signExtend, BitVec.toNat_ofInt]
    exact Int.toNat_of_nonneg (Int.emod_nonneg _ (by decide))
  have hsum : (pc + 1 + sext d).toNat = (pc.toNat + 1 + (sext d).toNat) % 65536 := by
    simp [BitVec.toNat_add]
  omega

/-- The branch's shape: only PC changes, to the target where the condition holds and past the operand byte where not. -/
theorem branch_goes {c : Bool} {P : Prop} (hc : c = true ↔ P) (d : Byte) (s : State) :
    ∃ target : Addr, branch c d s = .next { s with pc := target } ∧
      (P → (target.toNat : Int) = (s.pc.toNat + 1 + d.toInt) % 65536) ∧ (¬ P → target = s.pc + 1) := by
  cases c with
  | true => exact ⟨_, rfl, fun _ => toNat_branchTarget s.pc d, fun h => absurd (hc.mp rfl) h⟩
  | false => exact ⟨_, rfl, fun h => absurd (hc.mpr h) Bool.false_ne_true, fun _ => rfl⟩

theorem State.flag_set_iff (s : State) (f : Flag) : s.flag f = true ↔ flagOf s.p f = true := Iff.rfl

theorem State.flag_clear_iff (s : State) (f : Flag) : (!s.flag f) = true ↔ flagOf s.p f = false :=
  (Bool.not_eq_true' _).to_iff

/-- Settles O31: the map's cells by evaluation; each of the eight is `branch` on its flag set or clear. -/
theorem branches : Obligations.Branches := by
  refine ⟨fun _ _ => rfl, fun d s x hx => ?_⟩
  simp only [List.mem_cons, List.not_mem_nil, or_false] at hx
  obtain rfl | rfl | rfl | rfl | rfl | rfl | rfl | rfl := hx
  · exact branch_goes (s.flag_clear_iff .n) d s
  · exact branch_goes (s.flag_set_iff .n) d s
  · exact branch_goes (s.flag_clear_iff .v) d s
  · exact branch_goes (s.flag_set_iff .v) d s
  · exact branch_goes (s.flag_clear_iff .c) d s
  · exact branch_goes (s.flag_set_iff .c) d s
  · exact branch_goes (s.flag_clear_iff .z) d s
  · exact branch_goes (s.flag_set_iff .z) d s

theorem execJmp_abs_eq (a : Addr) (s : State) : exec (.jmp (.abs a)) s = .next { s with pc := a } := rfl

/-- JMP indirect is a 16-bit read of the pointer: the high byte is at the next address, across a page too. -/
theorem execJmp_ind_eq (a : Addr) (s : State) :
    exec (.jmp (.ind a)) s = .next { s with pc := memRead16 s a } := rfl

/-- Settles O32: the map's cells by evaluation, and one equation for each form of the operand. -/
theorem jumps : Obligations.Jumps :=
  ⟨fun _ _ => rfl, fun a s => ⟨execJmp_abs_eq a s, execJmp_ind_eq a s⟩⟩

end Sys2Proof.Machine
end

section
/-! The return from a subroutine (45_control_flow R253): an address put together from its two bytes, the stack cells after a
push, and the two pops. -/

namespace Sys2Proof.Machine

/-- An address is its high byte followed by its low byte. -/
@[simp] theorem word_hiByte_loByte (a : Addr) : word (hiByte a) (loByte a) = a :=
  BitVec.extractLsb'_append_extractLsb'_eq_extractLsb' (w := 16) rfl |>.trans BitVec.extractLsb'_eq_self

/-- A store to an address writes the cell of that address. -/
theorem State.cellOf_mem_storedCells (s : State) (a : Addr) : s.cellOf a ∈ s.storedCells a := List.mem_cons_self

/-- The byte pushed is in the stack cell that the pointer addressed. -/
theorem memRead_pushed_top (s : State) (v : Byte) : memRead (pushed s v) (stackAddr s.s) = v := by
  rw [memRead_pushed, if_pos (s.cellOf_mem_storedCells _)]

/-- A push leaves every other stack cell as it was. -/
theorem memRead_pushed_other (s : State) (v : Byte) {p : Byte} (h : p ≠ s.s) :
    memRead (pushed s v) (stackAddr p) = memRead s (stackAddr p) := by
  rw [memRead_pushed, if_neg (s.stack_cells_apart h)]

/-- RTS always answers a next state: the popped word plus one in PC, and S two more. -/
theorem execRts_eq (s : State) :
    exec .rts s = .next { s with
      s := s.s + 2
      pc := word (memRead s (stackAddr (s.s + 1))) (memRead s (stackAddr (s.s + 2))) + 1 } := by
  have h : s.s + 1 + 1 = s.s + 2 := BitVec.add_assoc s.s 1 1
  rw [← h]
  rfl

/-- Two more undoes what two pushes take from the pointer. -/
theorem pushed_pushed_s_add_two (s : State) (v w : Byte) : (pushed (pushed s v) w).s + 2 = s.s := by
  rw [pushed_s, pushed_s]
  bv_omega

/-- The two bytes of an address, pushed low byte first, are read back as that address. -/
theorem word_of_pushed_address (s : State) (w : Addr) :
    let t := pushed (pushed s (loByte w)) (hiByte w)
    word (memRead t (stackAddr (t.s + 1))) (memRead t (stackAddr (t.s + 2))) = w := by
  intro t
  have hhi : t.s + 1 = (pushed s (loByte w)).s := by simp [t]
  have hlo : t.s + 2 = s.s := pushed_pushed_s_add_two s _ _
  have hne : s.s ≠ (pushed s (loByte w)).s := by rw [pushed_s]; bv_omega
  rw [hhi, hlo, memRead_pushed_top, memRead_pushed_other _ _ hne, memRead_pushed_top, word_hiByte_loByte]

/-- RTS after JSR: PC past JSR's third byte, S where it was before JSR. -/
theorem execRts_after_jsr (a : Addr) (s : State) :
    ∃ t, exec (.jsr a) s = .next t ∧ exec .rts t = .next { t with pc := s.pc + 2, s := s.s } := by
  have hs := pushed_pushed_s_add_two s (loByte (s.pc + 1)) (hiByte (s.pc + 1))
  have hword := word_of_pushed_address s (s.pc + 1)
  have hpc : s.pc + 1 + 1 = s.pc + 2 := BitVec.add_assoc s.pc 1 1
  simp only [hs] at hword
  refine ⟨_, execJsr_eq a s, ?_⟩
  simp only [execRts_eq, memRead_setPc, State.setPc_s, hs, hword, hpc]

/-- Settles O34: the map's cell by evaluation, `execRts_eq`, and `execRts_after_jsr`. -/
theorem subroutineReturn : Obligations.SubroutineReturn := by
  refine ⟨fun _ _ => rfl, execRts_eq, fun a s => ?_⟩
  obtain ⟨t, hjsr, hrts⟩ := execRts_after_jsr a s
  exact ⟨t, _, hjsr, hrts, rfl⟩

end Sys2Proof.Machine
end

section
/-! The opcode map read both ways (30_encoding R100 to R115): what every byte's cell makes of the byte and its operand bytes,
and that the cell of an instruction's opcode byte gives the instruction back. From these the round trips, the classes of the
bytes, the lengths and the costs of the default table. -/

namespace Sys2Proof
open Machine

/-! Operand bytes. -/

@[simp] theorem loByte_word (hi lo : Byte) : loByte (word hi lo) = lo := by
  rw [loByte, word, BitVec.extractLsb'_append_eq_of_add_le (by decide), BitVec.extractLsb'_eq_self]

@[simp] theorem hiByte_word (hi lo : Byte) : hiByte (word hi lo) = hi := by
  rw [hiByte, word, BitVec.extractLsb'_append_eq_of_le (by decide), BitVec.extractLsb'_eq_self]

theorem addrBytes_word (b1 b2 : Byte) : addrBytes (word b2 b1) = [b1, b2] := by
  rw [addrBytes, loByte_word, hiByte_word]

theorem Mode.bytes_length (m : Mode) : m.bytes.length = m.operandBytes := by
  cases m <;> rfl

theorem Instr.operandList_length (i : Instr) : i.operandList.length = i.operandBytes := by
  cases i with
  | ora m | and m | eor m | adc m | sta m | lda m | cmp m | sbc m | stx m | ldx m | dec m | inc m | bit m | sty m | ldy m
  | cpy m | cpx m => exact m.bytes_length
  | asl t | rol t | lsr t | ror t =>
    cases t with
    | acc => rfl
    | mem m => exact m.bytes_length
  | jmp t => cases t <;> rfl
  | _ => rfl

/-! The cell of every byte. -/

/-- A claim about every opcode byte is 256 claims about one byte. -/
theorem forall_byte {P : Byte → Prop} (h : ∀ n : Fin 256, P (BitVec.ofFin n)) (op : Byte) : P op := h op.toFin

/-- The instruction encodes as this opcode byte, followed by as many of these two bytes as it has operand bytes. -/
structure Instr.EncodesAs (i : Instr) (op b1 b2 : Byte) : Prop where
  opcode : i.opcode = op
  operandList : i.operandList = [b1, b2].take i.operandBytes

theorem Instr.EncodesAs.operandBytes_le_two {i : Instr} {op b1 b2 : Byte} (h : i.EncodesAs op b1 b2) :
    i.operandBytes ≤ 2 := by
  have hlen := congrArg List.length h.operandList
  rw [i.operandList_length, List.length_take] at hlen
  exact hlen.trans_le (Nat.min_le_right ..)

/-- Every cell of the map makes a well-formed instruction of the bytes that encode it. The operand is absent or the first
byte, which is seen by evaluation, or the word of the two (`addrBytes_word`). -/
theorem mapInstr_encodesAs (op b1 b2 : Byte) :
    (mapInstr op b1 b2).EncodesAs op b1 b2 ∧ (mapInstr op b1 b2).wf = true ∧
      (mapInstr op b1 b2).opcodeClass = .map := by
  revert op
  refine forall_byte fun n => ?_
  fin_cases n <;> exact ⟨⟨rfl, by first | rfl | exact addrBytes_word b1 b2⟩, rfl, rfl⟩

/-- The cells that are no instruction's are those that latch an error, and they latch `unknown`. -/
theorem latches_mapInstr (op b1 b2 : Byte) :
    latches (mapInstr op b1 b2) = if notInstruction op then some .unknown else none := by
  revert op
  refine forall_byte fun n => ?_
  fin_cases n <;> rfl

/-- How many operand bytes a cell takes does not depend on them. -/
theorem mapInstr_operandBytes (op b1 b2 : Byte) : (mapInstr op b1 b2).operandBytes = (mapInstr op 0 0).operandBytes := by
  revert op
  refine forall_byte fun n => ?_
  fin_cases n <;> rfl

theorem latches_eq_unknown {i : Instr} (h : latches i = some .unknown) : i = .unk i.opcode := by
  cases i with
  | unk op => rfl
  | kil op => simp [latches] at h
  | _ => cases h

theorem mapInstr_eq_unk_iff (op b1 b2 : Byte) : mapInstr op b1 b2 = .unk op ↔ notInstruction op = true := by
  have hl := latches_mapInstr op b1 b2
  constructor
  · intro h
    by_contra hn
    rw [h, if_neg hn] at hl
    cases hl
  · intro h
    rw [if_pos h] at hl
    have hi := latches_eq_unknown hl
    rwa [(mapInstr_encodesAs op b1 b2).1.opcode] at hi

/-! The decoder under any two opcode sets. -/

theorem decodeOp_encodesAs (sets : OpcodeSets) (op b1 b2 : Byte) :
    (decodeOp sets op b1 b2).EncodesAs op b1 b2 ∧ (decodeOp sets op b1 b2).hasEncoding sets = true := by
  unfold decodeOp Instr.hasEncoding
  cases hc : sets.classOf op with
  | lock => exact ⟨⟨rfl, rfl⟩, by simp [Instr.wf, Instr.opcode, hc, Instr.opcodeClass]⟩
  | dop => exact ⟨⟨rfl, rfl⟩, by simp [Instr.wf, Instr.opcode, hc, Instr.opcodeClass]⟩
  | map =>
    obtain ⟨henc, hwf, hclass⟩ := mapInstr_encodesAs op b1 b2
    exact ⟨henc, by simp [hwf, hclass, henc.opcode, hc]⟩

theorem decodeOp_operandBytes (sets : OpcodeSets) (op b1 b2 : Byte) :
    (decodeOp sets op b1 b2).operandBytes = (decodeOp sets op 0 0).operandBytes := by
  unfold decodeOp
  cases sets.classOf op with
  | lock => rfl
  | dop => rfl
  | map => exact mapInstr_operandBytes op b1 b2

theorem take_two_append_drop (rest : List Byte) {k : Nat} (hk : k ≤ 2) (hr : k ≤ rest.length) :
    [rest.getD 0 0, rest.getD 1 0].take k ++ rest.drop k = rest := by
  match rest, k with
  | _, 0 => rfl
  | b1 :: rest, 1 => rfl
  | b1 :: b2 :: rest, 2 => rfl

/-- Settles O2: the decoder's instruction encodes as the bytes it was made from (`decodeOp_encodesAs`), and the operand
bytes it takes stand in front of the rest. -/
theorem encodeUndoesDecode : Obligations.EncodeUndoesDecode := by
  intro sets bytes rest i h
  cases bytes with
  | nil => cases h
  | cons op bytes =>
    obtain ⟨henc, hhas⟩ := decodeOp_encodesAs sets op (bytes.getD 0 0) (bytes.getD 1 0)
    simp only [decode] at h
    split at h
    · cases h
    · next hlen =>
      cases h
      refine ⟨hhas, ?_⟩
      rw [encode, henc.opcode, henc.operandList, List.cons_append,
        take_two_append_drop bytes henc.operandBytes_le_two (not_lt.mp hlen)]

/-- Settles O4: `decodeOp_operandBytes`, and the decoder's one test. -/
theorem shortBytesAreRefused : Obligations.ShortBytesAreRefused := by
  refine fun sets => ⟨rfl, fun op rest => ⟨fun b1 b2 => decodeOp_operandBytes sets op b1 b2, ?_⟩⟩
  rw [← decodeOp_operandBytes sets op (rest.getD 0 0) (rest.getD 1 0), decode]
  split
  · next h => exact iff_of_true rfl h
  · next h => exact iff_of_false nofun h

/-- Settles O40: no instruction of three bytes is longer than they are, and `decodeOp_encodesAs`. -/
theorem everyFetchDecodes : Obligations.EveryFetchDecodes := by
  intro s
  obtain ⟨henc, hhas⟩ :=
    decodeOp_encodesAs s.params.sets (memRead s s.pc) (memRead s (s.pc + 1)) (memRead s (s.pc + 2))
  exact ⟨_, _, if_neg (not_lt.mpr henc.operandBytes_le_two), hhas, List.length_drop⟩

/-! The cell of an instruction's opcode byte. -/

/-- The cell of an instruction's opcode byte, with its operand bytes in front of any others, is that instruction. `cases hw`
leaves the forms that have an encoding; an address is written as the word of its bytes, and the cell is evaluated. -/
theorem mapInstr_opcode (i : Instr) (hc : i.opcodeClass = .map) (hw : i.wf = true) (rest : List Byte) :
    mapInstr i.opcode ((i.operandList ++ rest).getD 0 0) ((i.operandList ++ rest).getD 1 0) = i := by
  cases i with
  | ora m | and m | eor m | adc m | sta m | lda m | cmp m | sbc m | stx m | ldx m | dec m | inc m | bit m | sty m | ldy m
  | cpy m | cpx m =>
    cases m with
    | imm d | zp d | zpx d | zpy d | izx d | izy d =>
      cases hw <;> (simp only [Instr.opcode, fieldsToOpcode, Mode.bbb1, Mode.bbb2]; rfl)
    | abs a | abx a | aby a =>
      conv_rhs => rw [← word_hiByte_loByte a]
      cases hw <;> (simp only [Instr.opcode, fieldsToOpcode, Mode.bbb1, Mode.bbb2]; rfl)
  | asl t | rol t | lsr t | ror t =>
    cases t with
    | acc => rfl
    | mem m =>
      cases m with
      | imm d | zp d | zpx d | zpy d | izx d | izy d =>
        cases hw <;> (simp only [Instr.opcode, fieldsToOpcode, Target.bbb, Mode.bbb2]; rfl)
      | abs a | abx a | aby a =>
        conv_rhs => rw [← word_hiByte_loByte a]
        cases hw <;> (simp only [Instr.opcode, fieldsToOpcode, Target.bbb, Mode.bbb2]; rfl)
  | bpl d | bmi d | bvc d | bvs d | bcc d | bcs d | bne d | beq d => simp only [Instr.opcode, branchOpcode]; rfl
  | jmp t =>
    cases t with
    | abs a | ind a =>
      conv_rhs => rw [← word_hiByte_loByte a]
      simp only [Instr.opcode]
      rfl
  | jsr a =>
    conv_rhs => rw [← word_hiByte_loByte a]
    simp only [Instr.opcode]
    rfl
  | dop _ _ | kil _ => cases hc
  | unk op => exact (mapInstr_eq_unk_iff op _ _).mpr hw
  | nop | inx | iny | dex | dey | tax | tay | txa | tya | tsx | txs | pha | php | pla | plp | clc | sec | cli | sei | clv
  | cld | sed | rts | brk | rti => rfl

theorem decodeOp_opcode {sets : OpcodeSets} {i : Instr} (h : i.hasEncoding sets = true) (rest : List Byte) :
    decodeOp sets i.opcode ((i.operandList ++ rest).getD 0 0) ((i.operandList ++ rest).getD 1 0) = i := by
  obtain ⟨hw, hc⟩ := Laws.EncodingLength.class_of_encoding h
  rw [decodeOp, hc]
  cases i with
  | kil op | dop op d => rfl
  | _ => exact mapInstr_opcode _ rfl hw rest

/-- Settles O1: the opcode byte's cell gives the instruction back (`decodeOp_opcode`), which takes the operand bytes it
has. -/
theorem decodeUndoesEncode : Obligations.DecodeUndoesEncode := by
  intro sets i rest h
  simp only [encode, List.cons_append, decode, decodeOp_opcode h]
  rw [if_neg (by simp [Instr.operandList_length]), List.drop_left' i.operandList_length]

end Sys2Proof
end

section
/-! The two opcode sets (30_encoding R103, R113 to R115): which bytes are lock opcodes, double no-ops and unknown opcodes,
under any sets and under the defaults, and what the default table charges for the others. -/

namespace Sys2Proof
open Machine

theorem Machine.OpcodeSets.classOf_eq (sets : OpcodeSets) (op : Byte) :
    sets.classOf op = if op ∈ sets.lock then .lock else if op ∈ sets.dop then .dop else .map := by
  simp only [OpcodeSets.classOf, List.contains_iff_mem]

theorem Machine.OpcodeSets.classOf_eq_lock_iff (sets : OpcodeSets) (op : Byte) :
    sets.classOf op = .lock ↔ op ∈ sets.lock := by
  by_cases hl : op ∈ sets.lock <;> by_cases hd : op ∈ sets.dop <;> simp [sets.classOf_eq, hl, hd]

theorem Machine.OpcodeSets.classOf_eq_dop_iff (sets : OpcodeSets) (op : Byte) :
    sets.classOf op = .dop ↔ op ∉ sets.lock ∧ op ∈ sets.dop := by
  by_cases hl : op ∈ sets.lock <;> by_cases hd : op ∈ sets.dop <;> simp [sets.classOf_eq, hl, hd]

theorem Machine.OpcodeSets.classOf_eq_map_iff (sets : OpcodeSets) (op : Byte) :
    sets.classOf op = .map ↔ op ∉ sets.lock ∧ op ∉ sets.dop := by
  by_cases hl : op ∈ sets.lock <;> by_cases hd : op ∈ sets.dop <;> simp [sets.classOf_eq, hl, hd]

/-- The class of the opcode byte is the class of the instruction decoded. -/
theorem opcodeClass_decodeOp (sets : OpcodeSets) (op b1 b2 : Byte) :
    (decodeOp sets op b1 b2).opcodeClass = sets.classOf op := by
  obtain ⟨henc, hhas⟩ := decodeOp_encodesAs sets op b1 b2
  rw [← (Laws.EncodingLength.class_of_encoding hhas).2, henc.opcode]

theorem decodeOp_eq_kil_iff (sets : OpcodeSets) (op b1 b2 : Byte) :
    decodeOp sets op b1 b2 = .kil op ↔ op ∈ sets.lock := by
  rw [← sets.classOf_eq_lock_iff]
  constructor
  · intro h
    rw [← opcodeClass_decodeOp sets op b1 b2, h, Instr.opcodeClass]
  · intro h
    rw [decodeOp, h]

theorem decodeOp_eq_dop_iff (sets : OpcodeSets) (op b1 b2 : Byte) :
    decodeOp sets op b1 b2 = .dop op b1 ↔ op ∉ sets.lock ∧ op ∈ sets.dop := by
  rw [← sets.classOf_eq_dop_iff]
  constructor
  · intro h
    rw [← opcodeClass_decodeOp sets op b1 b2, h, Instr.opcodeClass]
  · intro h
    rw [decodeOp, h]

theorem decodeOp_eq_unk_iff (sets : OpcodeSets) (op b1 b2 : Byte) :
    decodeOp sets op b1 b2 = .unk op ↔ (op ∉ sets.lock ∧ op ∉ sets.dop) ∧ notInstruction op = true := by
  rw [← sets.classOf_eq_map_iff, ← mapInstr_eq_unk_iff op b1 b2]
  constructor
  · intro h
    have hc : sets.classOf op = .map := by rw [← opcodeClass_decodeOp sets op b1 b2, h, Instr.opcodeClass]
    rw [decodeOp, hc] at h
    exact ⟨hc, h⟩
  · rintro ⟨hc, h⟩
    rw [decodeOp, hc]
    exact h

/-! The sets in numbers. -/

theorem mem_iff_toNat_mem {op : Byte} {l : List Byte} : op ∈ l ↔ op.toNat ∈ l.map BitVec.toNat :=
  (List.mem_map_of_injective fun _ _ => BitVec.eq_of_toNat_eq).symm

theorem notInstruction_iff (op : Byte) :
    notInstruction op = true ↔ op.toNat % 4 = 3 ∨ op.toNat ∈ [0x1A, 0x3A, 0x5A, 0x7A, 0x9E, 0xDA, 0xFA,
      0x0C, 0x1C, 0x3C, 0x5C, 0x7C, 0x9C, 0xDC, 0xFC] ∨ op ∈ defaultSets.lock ∨ op ∈ defaultSets.dop := by
  have hgroup : op ∈ inGroupUnknown ↔ op.toNat ∈ [0x1A, 0x3A, 0x5A, 0x7A, 0x9E, 0xDA, 0xFA,
      0x0C, 0x1C, 0x3C, 0x5C, 0x7C, 0x9C, 0xDC, 0xFC] := mem_iff_toNat_mem
  rw [← hgroup]
  simp only [notInstruction, Bool.or_eq_true, beq_iff_eq, List.contains_iff_mem, or_assoc, defaultSets]

theorem default_lock_dop_disjoint : ∀ op ∈ defaultSets.dop, op ∉ defaultSets.lock := by decide

/-- No byte of a default set has low bits 11 or is one of the fifteen in-group bytes. -/
theorem default_sets_not_in_group : ∀ op ∈ defaultSets.lock ++ defaultSets.dop,
    ¬ (op.toNat % 4 = 3 ∨ op.toNat ∈ [0x1A, 0x3A, 0x5A, 0x7A, 0x9E, 0xDA, 0xFA,
      0x0C, 0x1C, 0x3C, 0x5C, 0x7C, 0x9C, 0xDC, 0xFC]) := by decide

/-- Settles O3: the class of a byte decides KIL and DOP, `notInstruction` the bytes the map has no instruction for; the
default sets share no byte with each other or with the other unknown opcodes. -/
theorem lockDopAndUnknownBytes : Obligations.LockDopAndUnknownBytes := by
  have hany (sets : OpcodeSets) (op b1 b2 : Byte) := decodeOp_eq_unk_iff sets op b1 b2
  simp only [notInstruction_iff, and_assoc] at hany
  refine ⟨fun sets op b1 b2 => ⟨decodeOp_eq_kil_iff .., decodeOp_eq_dop_iff .., hany ..⟩,
    fun op b1 b2 => ⟨?kil, ?dop, ?unk⟩⟩
  case kil => exact (decodeOp_eq_kil_iff ..).trans mem_iff_toNat_mem
  case dop =>
    rw [decodeOp_eq_dop_iff, and_iff_right_of_imp (default_lock_dop_disjoint op)]
    exact mem_iff_toNat_mem
  case unk =>
    have hdis := default_sets_not_in_group op
    rw [List.mem_append] at hdis
    rw [hany]
    tauto

/-- Settles O5, by evaluation. -/
theorem sampleWordsDecode : Obligations.SampleWordsDecode :=
  ⟨rfl, rfl, rfl, rfl, rfl, rfl, rfl, rfl, rfl, rfl, rfl⟩

/-- Settles O24: the map's cells and both arms of `exec`, by evaluation. -/
theorem noOperations : Obligations.NoOperations :=
  ⟨fun _ _ => rfl, fun _ _ => rfl, fun _ _ _ => ⟨rfl, rfl⟩⟩

/-- Settles O37: the default set's bytes and the arm of `exec`, by evaluation. -/
theorem lockOpcodeLatches : Obligations.LockOpcodeLatches :=
  ⟨fun _ _ => rfl, fun _ _ => rfl⟩

/-! The default cost table. -/

/-- The table has an entry for exactly the opcodes that latch no error. -/
theorem isSome_tableCost (op b1 b2 : Byte) :
    (tableCost op).isSome = (latches (decodeOp defaultSets op b1 b2)).isNone := by
  revert op
  refine forall_byte fun n => ?_
  fin_cases n <;> rfl

theorem two_le_tableCost (op : Byte) {c : Nat} (h : tableCost op = some c) : 2 ≤ c := by
  have hall : (tableCost op).all (2 ≤ ·) = true := by
    revert op
    refine forall_byte fun n _ => ?_
    fin_cases n <;> rfl
  rw [h] at hall
  exact of_decide_eq_true hall

/-- Settles O44: the entries the table has, and for which opcodes, by `isSome_tableCost` and `two_le_tableCost`. -/
theorem costsAreAtLeastTwo : Obligations.CostsAreAtLeastTwo := by
  intro op b1 b2
  have hiff := isSome_tableCost op b1 b2
  rw [defaultParams_costOf, defaultCostOf]
  cases hc : tableCost op with
  | none =>
    rw [hc] at hiff
    refine ⟨fun h => ?_, fun _ => ⟨rfl, rfl⟩⟩
    rw [h] at hiff
    cases hiff
  | some c =>
    rw [hc] at hiff
    exact ⟨fun _ => ⟨rfl, two_le_tableCost op hc⟩, fun h => absurd (Option.isNone_iff_eq_none.mp hiff.symm) h⟩

end Sys2Proof
end

section
/-! What an instruction leaves alone outside the mapper: the registers it does not list as written, and the session
(10_state R22 to R24, R40 to R43). -/

namespace Sys2Proof.Machine

/-- The registers an instruction lists as written. -/
def writesReg (i : Instr) : Reg → Bool
  | .a => writesA i
  | .x => writesX i
  | .y => writesY i
  | .s => writesS i

/-- From `s` to `t` only the registers of `written` change; T, the budget and the stop flag stay, and the latched error is
`e` afterwards. -/
structure RegisterFrame (written : Reg → Bool) (e : ErrState) (s t : State) : Prop where
  reg : ∀ r, written r = false → t.reg r = s.reg r
  scratch : t.t = s.t
  budget : t.budget = s.budget
  stop : t.stop = s.stop
  err : t.err = e

namespace RegisterFrame

theorem refl (w : Reg → Bool) (s : State) : RegisterFrame w s.err s s := ⟨fun _ _ => rfl, rfl, rfl, rfl, rfl⟩

variable {w : Reg → Bool} {e : ErrState} {s t : State}

theorem setReg (h : RegisterFrame w e s t) {r : Reg} (hw : w r = true) (v : Byte) :
    RegisterFrame w e s (t.setReg r v) where
  reg r' hr' := by
    have hne : r ≠ r' := fun heq => Bool.false_ne_true (hr'.symm.trans (heq ▸ hw))
    rw [State.reg_setReg, if_neg hne, h.reg r' hr']
  scratch := (State.setReg_t ..).trans h.scratch
  budget := (State.setReg_budget ..).trans h.budget
  stop := (State.setReg_stop ..).trans h.stop
  err := (State.setReg_err ..).trans h.err

theorem setPc (h : RegisterFrame w e s t) (pc : Addr) : RegisterFrame w e s (t.setPc pc) :=
  ⟨fun r hr => (t.reg_setPc pc r).trans (h.reg r hr), h.scratch, h.budget, h.stop, h.err⟩

theorem setP (h : RegisterFrame w e s t) (p : Byte) : RegisterFrame w e s (t.setP p) :=
  ⟨fun r hr => (t.reg_setP p r).trans (h.reg r hr), h.scratch, h.budget, h.stop, h.err⟩

theorem setErr (h : RegisterFrame w e s t) (e' : ErrState) : RegisterFrame w e' s (t.setErr e') where
  reg r hr := by rw [← h.reg r hr]; cases r <;> rfl
  scratch := h.scratch
  budget := h.budget
  stop := h.stop
  err := rfl

theorem setAlu (h : RegisterFrame w e s t) {r : Reg} (hw : w r = true) (out : AluOut) :
    RegisterFrame w e s (t.setAlu r out) :=
  (h.setReg hw out.1).setP out.2

theorem memStore (h : RegisterFrame w e s t) (a : Addr) (v : Byte) : RegisterFrame w e s (memStore t a v) where
  reg r hr := by rw [← h.reg r hr]; cases r <;> simp [State.reg]
  scratch := (memStore_t ..).trans h.scratch
  budget := (memStore_budget ..).trans h.budget
  stop := (memStore_stop ..).trans h.stop
  err := (memStore_err ..).trans h.err

theorem memWrite (h : RegisterFrame w e s t) {u : State} {a : Addr} {v : Byte} (hu : memWrite t a v = .next u) :
    RegisterFrame w e s u := by
  rw [memWrite_eq] at hu
  split at hu
  · cases hu
  · cases hu
    exact h.memStore a v

theorem pushed (h : RegisterFrame w e s t) (hw : w .s = true) (v : Byte) : RegisterFrame w e s (pushed t v) :=
  (h.memStore _ v).setReg hw _

end RegisterFrame

theorem modifyTarget_registers {w : Reg → Bool} {f g s t} (hw : g = .acc → w .a = true)
    (h : modifyTarget f g s = .next t) : RegisterFrame w s.err s t := by
  cases g with
  | acc => cases h; exact (RegisterFrame.refl w s).setAlu (hw rfl) _
  | mem m => exact (((RegisterFrame.refl w s).setPc _).setP _).memWrite h

theorem latchUnknown_registers (w : Reg → Bool) (s : State) (op : Byte) :
    RegisterFrame w .unknown s (latchUnknown s op) := by
  have hlatched := ((RegisterFrame.refl w s).setErr .unknown).setP (withFlag s.p .g (Config.freeDebug s.draws))
  unfold latchUnknown
  split
  · exact hlatched
  · exact hlatched.setPc _

/-- Every arm of `exec` keeps to the frame of its instruction. -/
theorem exec_registers {i : Instr} {s t : State} (h : exec i s = .next t) :
    RegisterFrame (writesReg i) ((latches i).getD s.err) s t := by
  have hs := RegisterFrame.refl (writesReg i) s
  cases i with
  | ora m | and m | eor m | adc m | sbc m | lda m | ldx m | ldy m => cases h; exact (hs.setPc _).setAlu rfl _
  | cmp m | cpx m | cpy m | bit m => cases h; exact (hs.setPc _).setP _
  | sta m | stx m | sty m => exact (hs.setPc _).memWrite h
  | asl g | rol g | lsr g | ror g => exact modifyTarget_registers (by rintro rfl; rfl) h
  | inc m | dec m => exact ((hs.setPc _).setP _).memWrite h
  | inx | iny | dex | dey | tax | tay | txa | tya | tsx | txs => cases h; exact hs.setAlu rfl _
  | clc | sec | cli | sei | clv | cld | sed => cases h; exact hs.setP _
  | pha | php => cases (push_eq s _).symm.trans h; exact hs.pushed rfl _
  | pla => cases h; exact (hs.setReg rfl _).setAlu rfl _
  | plp => cases h; exact (hs.setReg rfl _).setP _
  | bpl d | bmi d | bvc d | bvs d | bcc d | bcs d | bne d | beq d =>
    cases h
    split
    · exact (hs.setPc _).setPc _
    · exact hs.setPc _
  | jmp g => cases g <;> (cases h; exact hs.setPc _)
  | jsr a => cases (execJsr_eq a s).symm.trans h; exact ((hs.pushed rfl _).pushed rfl _).setPc _
  | brk =>
    cases (execBrk_eq s).symm.trans h
    exact (((((hs.setPc _).pushed rfl _).pushed rfl _).pushed rfl _).setP _).setPc _
  | unk op => cases h; exact latchUnknown_registers _ s op
  | kil op => cases h; exact hs.setErr _
  | nop => cases h; exact hs
  | dop op d => cases h; exact hs.setPc _
  | rts => cases h; exact ((hs.setReg rfl _).setReg rfl _).setPc _
  | rti => cases h; exact ((((hs.setReg rfl _).setP _).setReg rfl _).setReg rfl _).setPc _

/-- Settles O50: field by field from the frame of `exec_registers`. -/
theorem onlyListedRegistersChange : Obligations.OnlyListedRegistersChange := by
  intro i s t h
  obtain ⟨hreg, ht, hbudget, hstop, herr⟩ := exec_registers h
  exact ⟨hreg .a, hreg .x, hreg .y, hreg .s, ht, hbudget, hstop, herr⟩

end Sys2Proof.Machine
end

section
/-! What every step keeps: the mapper's invariant with its configuration (10_state R44, R46; 20_memory R75, R78) and, under
MIRROR, the equality of the four images of low memory (20_memory R69). Both are kept along `Reaches`. -/

namespace Sys2Proof.Machine

/-! The mapper's invariant. -/

/-- A cell inside the storages that `n` bank arrays have. -/
def CellRef.inside (n : Nat) : CellRef → Prop
  | .flat i => i < 65536
  | .bank j => j < n * 16384

/-- Every listed index is inside the storages. -/
abbrev State.storageBelow (s : State) : Prop := Memory.below s.flat 65536 ∧ Memory.below s.banks (s.bankCount * 16384)

theorem PageEntry.cell_inside {e : PageEntry} {n off : Nat} (he : e.valid n) (hoff : off < 4096) :
    (e.cell off).inside n := by
  cases e with
  | flat i =>
    have := i.isLt
    simp only [PageEntry.cell, CellRef.inside]
    omega
  | bank k q =>
    have hk : k < n := he
    have := q.isLt
    simp only [PageEntry.cell, CellRef.inside]
    omega

theorem State.cellOf_inside {s : State} (h : ∀ i, (s.pt.get i).valid s.bankCount) (a : Addr) :
    (s.cellOf a).inside s.bankCount :=
  PageEntry.cell_inside (h _) (pageOffset_val a ▸ Nat.mod_lt _ (by decide))

theorem mem_mirrorImages {a : Addr} {n : Nat} :
    n ∈ mirrorImages a ↔ ∃ k < 4, n = a.toNat % 0x0800 + k * 0x0800 := by
  simp only [mirrorImages, List.mem_map]
  constructor
  · rintro ⟨k, hk, rfl⟩
    exact ⟨k, by simp at hk; omega, rfl⟩
  · rintro ⟨k, hk, rfl⟩
    exact ⟨k, by simp; omega, rfl⟩

/-- The cells of a store: the address's own, and under MIRROR below the limit the four images. -/
theorem State.mem_storedCells {s : State} {a : Addr} {c : CellRef} :
    c ∈ s.storedCells a ↔ c = s.cellOf a ∨ ((s.params.mirror = true ∧ a < s.params.mirrorLimit) ∧
      ∃ k < 4, c = .flat (a.toNat % 0x0800 + k * 0x0800)) := by
  rw [State.storedCells, List.mem_cons]
  split
  · next h =>
    simp only [h, true_and, List.mem_map, mem_mirrorImages]
    constructor
    · rintro (h | ⟨n, ⟨k, hk, rfl⟩, rfl⟩)
      · exact .inl h
      · exact .inr ⟨k, hk, rfl⟩
    · rintro (h | ⟨k, hk, rfl⟩)
      · exact .inl h
      · exact .inr ⟨_, ⟨k, hk, rfl⟩, rfl⟩
  · next h => simp [h]

theorem State.storedCells_inside {s : State} (h : ∀ i, (s.pt.get i).valid s.bankCount) {a : Addr} {c : CellRef}
    (hc : c ∈ s.storedCells a) : c.inside s.bankCount := by
  rcases State.mem_storedCells.mp hc with rfl | ⟨-, k, hk, rfl⟩
  · exact State.cellOf_inside h a
  · simp only [CellRef.inside]
    omega

theorem State.writeCell_below {s : State} {c : CellRef} (v : Byte) (hc : c.inside s.bankCount) (h : s.storageBelow) :
    (s.writeCell c v).storageBelow := by
  cases c with
  | flat n => exact ⟨Memory.below_write _ _ _ _ hc h.1, h.2⟩
  | bank n => exact ⟨h.1, Memory.below_write _ _ _ _ hc h.2⟩

theorem State.writeCells_below (cs : List CellRef) (v : Byte) : ∀ s : State, (∀ c ∈ cs, c.inside s.bankCount) →
    s.storageBelow → (cs.foldl (fun t c => t.writeCell c v) s).storageBelow := by
  induction cs with
  | nil => exact fun _ _ h => h
  | cons c cs ih =>
    intro s hcs h
    refine ih _ (fun d hd => ?_) (State.writeCell_below v (hcs c List.mem_cons_self) h)
    rw [State.writeCell_bankCount]
    exact hcs d (List.mem_cons_of_mem _ hd)

theorem State.Inv.memStore {s : State} (h : s.Inv) (a : Addr) (v : Byte) : (memStore s a v).Inv := by
  obtain ⟨hflat, hbanks⟩ := memStore_wf a v ⟨h.flat_wf, h.banks_wf⟩
  obtain ⟨hflat', hbanks'⟩ : (Machine.memStore s a v).storageBelow :=
    State.writeCells_below _ v s (fun _ => State.storedCells_inside h.entries) ⟨h.flat_size, h.banks_size⟩
  refine ⟨hflat, hflat', hbanks, hbanks', ?_, ?_⟩
  · simpa using h.entries
  · simpa using h.low_slots

theorem State.Inv.of_sameMapper {s t : State} (h : s.Inv) (hst : SameMapper s t) : t.Inv := by
  obtain ⟨hflat, hbanks, hcount, hpt, -⟩ := hst
  constructor
  · exact hflat ▸ h.flat_wf
  · exact hflat ▸ h.flat_size
  · exact hbanks ▸ h.banks_wf
  · exact hbanks ▸ hcount ▸ h.banks_size
  · exact hpt ▸ hcount ▸ h.entries
  · exact hpt ▸ h.low_slots

/-- The two states have the same page table, bank count and parameters. -/
def SameConfig (s t : State) : Prop := t.pt = s.pt ∧ t.bankCount = s.bankCount ∧ t.params = s.params

theorem Reaches.sameConfig {s t : State} (h : Reaches s t) : SameConfig s t := by
  refine h.keeps (Q := SameConfig s) ?_ ?_ ⟨rfl, rfl, rfl⟩
  · rintro u v ⟨-, -, hcount, hpt, hpar⟩ ⟨hpt', hcount', hpar'⟩
    exact ⟨hpt.trans hpt', hcount.trans hcount', hpar.trans hpar'⟩
  · rintro u a v - ⟨hpt, hcount, hpar⟩
    exact ⟨(memStore_pt ..).trans hpt, (memStore_bankCount ..).trans hcount, (memStore_params ..).trans hpar⟩

theorem Reaches.inv {s t : State} (h : Reaches s t) (hs : s.Inv) : t.Inv :=
  h.keeps (fun _ _ hst hs => hs.of_sameMapper hst) (fun _ a v _ hs => hs.memStore a v) hs

theorem step_stop {s t : State} (h : step s = .next t) : t.stop = s.stop := by
  obtain ⟨-, u, hu, rfl⟩ := step_next h
  exact (exec_registers hu).stop

/-- Settles O45: a step does to the mapper what register changes and stores do, and both keep its invariant and its
configuration. -/
theorem stepKeepsTheMapperInvariant : Obligations.StepKeepsTheMapperInvariant := by
  intro s t hs h
  obtain ⟨hpt, hcount, hpar⟩ := (step_reaches h).sameConfig
  exact ⟨(step_reaches h).inv hs, hpt, hcount, hpar, step_stop h⟩

/-! The four images of low memory. -/

theorem State.LowPagesPrivate.of_pt {s t : State} (h : s.LowPagesPrivate) (hpt : t.pt = s.pt) : t.LowPagesPrivate :=
  ⟨hpt ▸ h.slot0, hpt ▸ h.slot1, hpt ▸ h.others⟩

/-- No address from 0x2000 up designates a cell of the two low pages. -/
theorem State.LowPagesPrivate.cellOf_ne {s : State} (h : s.LowPagesPrivate) {a : Addr} (ha : 0x2000 ≤ a.toNat) {n : Nat}
    (hn : n < 0x2000) : s.cellOf a ≠ .flat n := by
  have hslot := pageSlot_val a
  obtain ⟨h0, h1⟩ := h.others (pageSlot a) (by omega)
  intro hc
  rw [State.cellOf, pageOffset_val] at hc
  cases he : s.pt.get (pageSlot a) with
  | bank k q => rw [he] at hc; cases hc
  | flat i =>
    rw [he] at hc h0 h1
    have hi0 : i.val ≠ 0 := fun e => h0 (congrArg PageEntry.flat (Fin.ext e))
    have hi1 : i.val ≠ 1 := fun e => h1 (congrArg PageEntry.flat (Fin.ext e))
    have heq : i.val * 4096 + a.toNat % 4096 = n := by simpa [PageEntry.cell] using hc
    omega

/-- A store writes a cell of low memory exactly when it writes that cell's first image. -/
theorem State.ImagesAgree.mem_storedCells_image {s : State} (h : s.ImagesAgree) (a : Addr) {n k : Nat} (hn : n < 0x0800)
    (hk : k < 4) : .flat (n + k * 0x0800) ∈ s.storedCells a ↔ .flat n ∈ s.storedCells a := by
  by_cases hmod : n = a.toNat % 0x0800
  · by_cases hlow : s.params.mirror = true ∧ a < s.params.mirrorLimit
    · exact iff_of_true (State.mem_storedCells.mpr (.inr ⟨hlow, k, hk, by rw [hmod]⟩))
        (State.mem_storedCells.mpr (.inr ⟨hlow, 0, by decide, by rw [hmod]; rfl⟩))
    · have hlimit : ¬ a.toNat < s.params.mirrorLimit.toNat := fun hlt => hlow ⟨h.mirror, BitVec.lt_def.mpr hlt⟩
      have ha : 0x2000 ≤ a.toNat := h.limit.trans (not_lt.mp hlimit)
      have hout {m : Nat} (hm : m < 0x2000) : .flat m ∉ s.storedCells a := by
        rw [State.mem_storedCells]
        rintro (hc | ⟨hlow', -⟩)
        · exact h.low_private.cellOf_ne ha hm hc.symm
        · exact hlow hlow'
      exact iff_of_false (hout (by omega)) (hout (by omega))
  · have hout {m : Nat} (hm : m % 0x0800 = n) : .flat m ∉ s.storedCells a := fun hc =>
      hmod (hm.symm.trans (State.storedCells_index_mod hc))
    exact iff_of_false (hout (by omega)) (hout (by omega))

theorem State.ImagesAgree.memStore {s : State} (h : s.ImagesAgree) (a : Addr) (v : Byte) :
    (memStore s a v).ImagesAgree where
  mirror := by simpa using h.mirror
  limit := by simpa using h.limit
  low_private := h.low_private.of_pt (memStore_pt ..)
  images n k hn hk := by
    have hread := State.readCell_memStore s a v
    have h1 := hread (.flat (n + k * 0x0800))
    have h2 := hread (.flat n)
    simp only [State.readCell, h.mem_storedCells_image a hn hk, h.images n k hn hk] at h1 h2
    rw [h1, h2]

theorem State.ImagesAgree.of_sameMapper {s t : State} (h : s.ImagesAgree) (hst : SameMapper s t) : t.ImagesAgree := by
  obtain ⟨hflat, -, -, hpt, hpar⟩ := hst
  exact ⟨hpar ▸ h.mirror, hpar ▸ h.limit, h.low_private.of_pt hpt, hflat ▸ h.images⟩

/-- Settles O48: every store writes all four images of a low byte or none, so that `ImagesAgree` is kept along
`Reaches`. -/
theorem stepKeepsTheImagesEqual : Obligations.StepKeepsTheImagesEqual := fun _ _ hs h =>
  (step_reaches h).keeps (fun _ _ hst hs => hs.of_sameMapper hst) (fun _ a v _ hs => hs.memStore a v) hs

end Sys2Proof.Machine
end

section
/-! Steps and the session (46_dispatch_loop R270, R273): what an instruction does is the same whatever the budget and the stop
flag are, and the only stop of a step with no error latched is a store turned away. -/

namespace Sys2Proof.Machine

/-! Noninterference. -/

/-- The state with another budget and stop flag. -/
def State.withSession (s : State) (b : Nat) (st : Bool) : State := { s with budget := b, stop := st }

/-- A result with its next state changed. -/
def mapNext (f : State → State) : Result → Result
  | .next s => .next (f s)
  | .fault e => .fault e
  | .refused e => .refused e

section
variable (b : Nat) (st : Bool)

theorem writeCells_withSession (cs : List CellRef) (v : Byte) : ∀ s : State,
    cs.foldl (fun t c => t.writeCell c v) (s.withSession b st) =
      (cs.foldl (fun t c => t.writeCell c v) s).withSession b st := by
  induction cs with
  | nil => exact fun _ => rfl
  | cons c cs ih =>
    intro s
    rw [List.foldl_cons, List.foldl_cons, ← ih]
    cases c <;> rfl

theorem memStore_withSession (s : State) (a : Addr) (v : Byte) :
    memStore (s.withSession b st) a v = (memStore s a v).withSession b st :=
  writeCells_withSession b st (s.storedCells a) v s

theorem memWrite_withSession (s : State) (a : Addr) (v : Byte) :
    memWrite (s.withSession b st) a v = mapNext (·.withSession b st) (memWrite s a v) := by
  have hp : (s.withSession b st).writeProtected a = s.writeProtected a := rfl
  rw [memWrite_eq, memWrite_eq, hp, memStore_withSession]
  split <;> rfl

theorem pushed_withSession (s : State) (v : Byte) : pushed (s.withSession b st) v = (pushed s v).withSession b st :=
  congrArg (fun t => t.setReg .s (s.s - 1)) (memStore_withSession b st s (stackAddr s.s) v)

theorem modifyTarget_withSession (f : Byte → Byte → AluOut) (g : Target) (s : State) :
    modifyTarget f g (s.withSession b st) = mapNext (·.withSession b st) (modifyTarget f g s) := by
  cases g with
  | acc => rfl
  | mem m => exact memWrite_withSession b st ((skipOperand m s).setP _) _ _

theorem branch_withSession (c : Bool) (d : Byte) (s : State) :
    branch c d (s.withSession b st) = mapNext (·.withSession b st) (branch c d s) := by
  cases c <;> rfl

theorem latchUnknown_withSession (s : State) (op : Byte) :
    latchUnknown (s.withSession b st) op = (latchUnknown s op).withSession b st := by
  unfold latchUnknown
  split <;> rfl

theorem push_withSession (s : State) (v : Byte) :
    push (s.withSession b st) v = mapNext (·.withSession b st) (push s v) := by
  rw [push_eq, push_eq, pushed_withSession, mapNext]

theorem exec_withSession (i : Instr) (s : State) :
    exec i (s.withSession b st) = mapNext (·.withSession b st) (exec i s) := by
  cases i with
  | sta m | stx m | sty m => exact memWrite_withSession b st (skipOperand m s) _ _
  | inc m | dec m => exact memWrite_withSession b st ((skipOperand m s).setP _) _ _
  | asl g | rol g | lsr g | ror g => exact modifyTarget_withSession b st _ g s
  | pha | php => exact push_withSession b st s _
  | jsr a => rw [execJsr_eq, execJsr_eq, pushed_withSession, pushed_withSession]; rfl
  | brk =>
    have hadvance : advance 1 (s.withSession b st) = (advance 1 s).withSession b st := rfl
    have hpc : (s.withSession b st).pc = s.pc := rfl
    have hp : (s.withSession b st).p = s.p := rfl
    rw [execBrk_eq, execBrk_eq, hadvance, hpc, hp, pushed_withSession, pushed_withSession, pushed_withSession]
    generalize pushed _ _ = u
    rfl
  | bpl d | bmi d | bvc d | bvs d | bcc d | bcs d | bne d | beq d => exact branch_withSession b st _ d s
  | unk op => exact congrArg Host.Outcome.next (latchUnknown_withSession b st s op)
  | jmp g => cases g <;> rfl
  | _ => rfl

end

/-- A step with another budget and stop flag: the same step, with the cost taken from that budget. -/
theorem step_withSession (s : State) (b : Nat) (st : Bool) : step (s.withSession b st) =
    mapNext (·.withSession (b - min b (s.cycleCost (opcodeAt s))) st) (step s) := by
  have hbegin : beginStep (s.withSession b st) =
      (beginStep s).withSession (b - min b (s.cycleCost (opcodeAt s))) st := rfl
  have hfetch : fetchInstr (s.withSession b st) = fetchInstr s := rfl
  have herr : (s.withSession b st).err = s.err := rfl
  unfold step stepWith
  rw [herr, hbegin, hfetch, exec_withSession]
  cases s.err with
  | none => cases exec (fetchInstr s) (beginStep s) <;> rfl
  | locked => rfl
  | unknown => rfl

/-- Settles O43: both halves are `step_withSession`. -/
theorem stepIgnoresBudgetAndStop : Obligations.StepIgnoresBudgetAndStop := by
  intro s b st
  have hstep := step_withSession s b st
  constructor
  · intro t ht
    rw [ht] at hstep
    exact hstep
  · intro e he
    rw [he] at hstep
    exact hstep

/-! Stops. -/

/-- An instruction's result: a next state, or a protected address that it stores to. -/
def CompletesOrFaults (s : State) (r : Result) : Prop :=
  (∃ t, r = .next t) ∨ ∃ a, r = .fault (.writeProtect a) ∧ s.writeProtected a = true

theorem memWrite_completesOrFaults (s : State) (a : Addr) (v : Byte) : CompletesOrFaults s (memWrite s a v) := by
  rw [memWrite_eq]
  split
  · next h => exact .inr ⟨a, rfl, h⟩
  · exact .inl ⟨_, rfl⟩

/-- An instruction that does not store to its operand always answers a next state. -/
theorem exec_completes {i : Instr} (h : storesToOperand i = false) (s : State) : ∃ t, exec i s = .next t := by
  cases i with
  | sta m | stx m | sty m | inc m | dec m => cases h
  | asl g | rol g | lsr g | ror g =>
    cases g with
    | acc => exact ⟨_, rfl⟩
    | mem m => cases h
  | pha | php => exact ⟨_, push_eq s _⟩
  | jsr a => exact ⟨_, execJsr_eq a s⟩
  | brk => exact ⟨_, execBrk_eq s⟩
  | jmp g => cases g <;> exact ⟨_, rfl⟩
  | _ => exact ⟨_, rfl⟩

/-- One that does stores once, at its effective address. -/
theorem exec_storesToOperand {i : Instr} (h : storesToOperand i = true) (s : State) : CompletesOrFaults s (exec i s) := by
  cases i with
  | sta m | stx m | sty m => exact memWrite_completesOrFaults (skipOperand m s) _ _
  | inc m | dec m => exact memWrite_completesOrFaults ((skipOperand m s).setP _) _ _
  | asl g | rol g | lsr g | ror g =>
    cases g with
    | acc => cases h
    | mem m => exact memWrite_completesOrFaults ((skipOperand m s).setP _) _ _
  | _ => cases h

theorem step_of_no_error {s : State} (h : s.err = .none) : step s = stepWith exec s := by
  rw [step, h]

/-- Settles O42: by whether the instruction stores to its operand. -/
theorem onlyWriteProtectStopsAStep : Obligations.OnlyWriteProtectStopsAStep := by
  intro s herr
  rw [step_of_no_error herr, stepWith]
  cases hstores : storesToOperand (fetchInstr s) with
  | false =>
    obtain ⟨u, hu⟩ := exec_completes hstores (beginStep s)
    rw [hu]
    exact ⟨.inl ⟨_, rfl⟩, fun _ => ⟨_, rfl⟩⟩
  | true =>
    obtain ⟨u, hu⟩ | ⟨a, ha, hprot⟩ := exec_storesToOperand hstores (beginStep s)
    · rw [hu]
      exact ⟨.inl ⟨_, rfl⟩, fun _ => ⟨_, rfl⟩⟩
    · obtain ⟨hro, hguard⟩ : s.params.roEnforce = true ∧ s.params.guarded a = true := Bool.and_eq_true_iff.mp hprot
      rw [ha]
      exact ⟨.inr ⟨a, rfl, hro, hguard, rfl⟩, fun hoff => absurd hro (hoff ▸ Bool.false_ne_true)⟩

/-- Settles O39: what the three bytes decode to is the instruction that the step fetches. -/
theorem stepRunsTheDecodedInstruction : Obligations.StepRunsTheDecodedInstruction := by
  intro s i rest herr hdec
  have hi : fetchInstr s = i := by
    simp only [decode] at hdec
    split at hdec
    · cases hdec
    · exact (Prod.mk.inj (Except.ok.inj hdec)).1
  rw [step_of_no_error herr, stepWith, hi]
  intro s₀
  have hbegin : beginStep s = s₀ := rfl
  rw [hbegin]
  cases exec i s₀ <;> rfl

/-- Settles O41: the two arms of `step` for a latched error, and the test at the head of `run`. -/
theorem latchedErrorStopsStepsAndRuns : Obligations.LatchedErrorStopsStepsAndRuns := by
  intro s
  refine ⟨fun h => ?_, fun h => ?_, fun h _ _ _ => if_pos h⟩
  · rw [step, h]
  · rw [step, h]

end Sys2Proof.Machine
end

section
/-! Stores and reads in numbers (20_memory R60 to R83, 40_addressing_modes R132 to R140): the whole of `MemWrite`, where a
store is visible, 16-bit reads, effective addresses; and the canonical form of a storage. -/

namespace Sys2Proof.Machine

theorem writeProtected_iff (s : State) (a : Addr) : s.writeProtected a = true ↔ s.params.roEnforce = true ∧
    (0x8000 ≤ a.toNat ∨ (s.params.expRomLo.toNat ≤ a.toNat ∧ a.toNat ≤ s.params.expRomHi.toNat)) := by
  simp only [State.writeProtected, Params.guarded, prgBase, Bool.and_eq_true, Bool.or_eq_true, decide_eq_true_eq,
    BitVec.le_def]
  rfl

/-- Settles O7: the guard and the cells of a store in numbers, and what `MemWrite` does where it is not turned away. -/
theorem memWriteFollowsThePolicies : Obligations.MemWriteFollowsThePolicies := by
  intro s a v turnedAway written
  have hturned : s.writeProtected a = true ↔ turnedAway := writeProtected_iff s a
  have hwritten (c : CellRef) : c ∈ s.storedCells a ↔ written c := by
    rw [State.mem_storedCells, and_assoc]
    exact Iff.rfl
  refine ⟨fun h => memWrite_fault (hturned.mpr h), fun h => ?_⟩
  obtain ⟨t, ht, hcells, -, hframe⟩ := memWrite_storedAt (v := v) (Bool.eq_false_iff.mpr (mt hturned.mp h))
  refine ⟨t, ht, hframe, fun c => ⟨fun hc => ?_, fun hc => ?_⟩⟩
  · rw [hcells, if_pos ((hwritten c).mpr hc)]
  · rw [hcells, if_neg (mt (hwritten c).mp hc)]

/-- Settles O8: with every slot flat and in place, the stored cells are those of the addresses named. -/
theorem storeIsVisibleAtTheFourImages : Obligations.StoreIsVisibleAtTheFourImages := by
  intro s a v hid hp
  refine ⟨_, memWrite_next hp, fun b => ?_⟩
  rw [memRead_memStore]
  refine if_congr ?_ rfl rfl
  rw [State.mem_storedCells, State.cellOf_of_identityMap hid, State.cellOf_of_identityMap hid, and_assoc]
  simp only [CellRef.flat.injEq, BitVec.toNat_inj]
  refine or_congr_right (and_congr_right fun _ => and_congr_right fun _ => ?_)
  constructor
  · rintro ⟨k, hk, hb⟩
    omega
  · rintro ⟨hb, hmod⟩
    exact ⟨b.toNat / 0x0800, by omega, by omega⟩

theorem word_toNat (hi lo : Byte) : (word hi lo).toNat = lo.toNat + 256 * hi.toNat := by
  rw [word, BitVec.toNat_append, ← Nat.shiftLeft_add_eq_or_of_lt lo.isLt, Nat.shiftLeft_eq]
  omega

theorem addr_add_one (a : Addr) : a + 1 = BitVec.ofNat 16 ((a.toNat + 1) % 65536) := by
  apply BitVec.eq_of_toNat_eq
  simp [BitVec.toNat_add]

/-- Settles O9: a word and the next address in numbers. -/
theorem readWordIsLittleEndianAndWraps : Obligations.ReadWordIsLittleEndianAndWraps := by
  intro s a
  rw [memRead16, word_toNat, addr_add_one]

/-! The canonical form. -/

theorem Memory.mem_of_read_ne {m : Memory} {n : Nat} (h : Memory.read m n ≠ unlisted) : (n, Memory.read m n) ∈ m := by
  induction m with
  | nil => exact absurd rfl h
  | cons c rest ih =>
    rw [Memory.read] at h ⊢
    by_cases hc : c.1 = n
    · subst hc
      rw [if_pos rfl]
      exact List.mem_cons_self
    · rw [if_neg hc] at h ⊢
      exact List.mem_cons_of_mem _ (ih h)

theorem Memory.read_of_mem {m : Memory} (h : m.Pairwise fun c d => c.1 < d.1) {c : Host.Cell} (hc : c ∈ m) :
    Memory.read m c.1 = c.2 := by
  induction m with
  | nil => cases hc
  | cons d rest ih =>
    obtain ⟨hd, hrest⟩ := List.pairwise_cons.mp h
    rw [Memory.read]
    rcases List.mem_cons.mp hc with rfl | hc
    · rw [if_pos rfl]
    · rw [if_neg (hd c hc).ne, ih hrest hc]

/-- A canonical storage lists exactly the bytes it reads that are not the unlisted one. -/
theorem Memory.mem_iff_read {m : Memory} (h : Memory.wf m) (c : Host.Cell) :
    c ∈ m ↔ c.2 ≠ unlisted ∧ Memory.read m c.1 = c.2 := by
  constructor
  · exact fun hc => ⟨h.2 c hc, Memory.read_of_mem h.1 hc⟩
  · rintro ⟨hne, hread⟩
    have hmem := Memory.mem_of_read_ne (hread ▸ hne)
    rwa [hread] at hmem

/-- Settles O10: equal reads give the same entries, and strictly rising lists of the same entries are equal. -/
theorem canonicalMemoryIsItsReads : Obligations.CanonicalMemoryIsItsReads := by
  intro m m' h h' hread
  have hnodup {m : Memory} (h : Memory.wf m) : m.Nodup := h.1.imp fun hlt heq => hlt.ne (congrArg Prod.fst heq)
  have hperm : m.Perm m' := (List.perm_ext_iff_of_nodup (hnodup h) (hnodup h')).mpr fun c => by
    rw [Memory.mem_iff_read h, Memory.mem_iff_read h', hread]
  exact hperm.eq_of_pairwise (fun _ _ _ _ hlt hgt => absurd hlt hgt.asymm) h.1 h'.1

/-! Addressing modes. -/

theorem zext_toNat (v : Byte) : (zext v).toNat = v.toNat := by
  simp [zext, BitVec.toNat_setWidth]
  have := v.isLt
  omega

theorem zext_eq_ofNat (v : Byte) : zext v = BitVec.ofNat 16 v.toNat := by
  apply BitVec.eq_of_toNat_eq
  have := v.isLt
  simp [zext_toNat]
  omega

theorem zeroPagePointer_toNat (s : State) (p : Byte) : (zeroPagePointer s p).toNat =
    (memRead s (BitVec.ofNat 16 p.toNat)).toNat + 256 * (memRead s (BitVec.ofNat 16 ((p.toNat + 1) % 256))).toNat := by
  rw [zeroPagePointer, word_toNat, zext_eq_ofNat, zext_eq_ofNat, BitVec.toNat_add]
  rfl

/-- Settles O11: mode by mode, with the sums of `ea` in numbers. -/
theorem effectiveAddresses : Obligations.EffectiveAddresses := by
  intro s d a
  refine ⟨rfl, rfl, zext_toNat d, ?zpx, ?zpy, rfl, ?abx, ?aby, ?izx, ?izy, ?skip1, ?skip2, ?operand⟩
  case zpx => rw [ea, zext_toNat, BitVec.toNat_add]
  case zpy => rw [ea, zext_toNat, BitVec.toNat_add]
  case abx => rw [ea, BitVec.toNat_add, zext_toNat]
  case aby => rw [ea, BitVec.toNat_add, zext_toNat]
  case izx => rw [ea, zeroPagePointer_toNat, BitVec.toNat_add, Nat.mod_add_mod]
  case izy => rw [ea, BitVec.toNat_add, zeroPagePointer_toNat, zext_toNat]
  all_goals simp only [List.forall_mem_cons, List.not_mem_nil, false_imp_iff, implies_true, and_true]
  case skip1 => exact ⟨rfl, rfl, rfl, rfl, rfl, rfl⟩
  case skip2 => exact ⟨rfl, rfl, rfl⟩
  case operand => exact ⟨rfl, rfl, rfl, rfl, rfl, rfl, rfl, rfl⟩

end Sys2Proof.Machine
end

section
/-! Arithmetic, comparison, bit test and transfers (41_alu_group1 R157 to R160, 43_group3 R191 to R195, 44_single_byte R209 to
R215): the ALU operations in numbers with their flags. -/

namespace Sys2Proof.Machine

/-! Status words. -/

theorem flagOf_setNZ_n (p v : Byte) : flagOf (setNZ p v) .n = v.getLsbD 7 := (flagsNZ_setNZ p v).1

theorem flagOf_setNZ_z (p v : Byte) : flagOf (setNZ p v) .z = decide (v.toNat = 0) := (flagsNZ_setNZ p v).2.1

theorem flagOf_setNZ_other (p v : Byte) {f : Flag} (hn : f ≠ .n) (hz : f ≠ .z) : flagOf (setNZ p v) f = flagOf p f :=
  (flagsNZ_setNZ p v).2.2 f hn hz

theorem flagsCNZ_setCNZ (p : Byte) (c : Bool) (v : Byte) : FlagsCNZ p (setCNZ p c v) c v := by
  refine ⟨?_, flagOf_setNZ_n _ v, flagOf_setNZ_z _ v, fun f hc hn hz => ?_⟩
  · rw [setCNZ, flagOf_setNZ_other _ _ (by decide) (by decide), flagOf_withFlag, if_pos rfl]
  · rw [setCNZ, flagOf_setNZ_other _ _ hn hz, flagOf_withFlag, if_neg hc.symm]

theorem flagsCVNZ_setNZ (p : Byte) (c v : Bool) (r : Byte) :
    FlagsCVNZ p (setNZ (withFlag (withFlag p .c c) .v v) r) c v r := by
  refine ⟨?_, ?_, flagOf_setNZ_n _ r, flagOf_setNZ_z _ r, fun f hc hv hn hz => ?_⟩
  · rw [flagOf_setNZ_other _ _ (by decide) (by decide), flagOf_withFlag, if_neg (by decide), flagOf_withFlag, if_pos rfl]
  · rw [flagOf_setNZ_other _ _ (by decide) (by decide), flagOf_withFlag, if_pos rfl]
  · rw [flagOf_setNZ_other _ _ hn hz, flagOf_withFlag, if_neg hv.symm, flagOf_withFlag, if_neg hc.symm]

/-! Addition and subtraction. -/

theorem msb_eq_bit7 (v : Byte) : v.msb = v.getLsbD 7 := BitVec.msb_eq_getLsbD_last v

theorem aluAdd_toNat (r v p : Byte) :
    (aluAdd r v p).1.toNat = (r.toNat + v.toNat + (flagOf p .c).toNat) % 256 := BitVec.toNat_ofNat ..

theorem aluAdd_flagsCVNZ (r v p : Byte) : FlagsCVNZ p (aluAdd r v p).2
    (decide (255 < r.toNat + v.toNat + (flagOf p .c).toNat))
    ((r.getLsbD 7 == v.getLsbD 7) && ((aluAdd r v p).1.getLsbD 7 != r.getLsbD 7)) (aluAdd r v p).1 := by
  rw [← msb_eq_bit7, ← msb_eq_bit7, ← msb_eq_bit7]
  exact flagsCVNZ_setNZ ..

/-- Settles O14: the sum in numbers, and its flags; the two formulas of V agree on bit 7. -/
theorem adcAddsWithCarry : Obligations.AdcAddsWithCarry := by
  refine ⟨fun _ _ => rfl, fun m s => ⟨_, _, aluInto_a_eq aluAdd m s, aluAdd_toNat .., ?_⟩⟩
  have hflags := aluAdd_flagsCVNZ s.a (operand m s) s.p
  generalize (aluAdd s.a (operand m s) s.p).1 = r at hflags ⊢
  have hv : (((s.a ^^^ r) &&& (operand m s ^^^ r)).getLsbD 7) =
      ((s.a.getLsbD 7 == (operand m s).getLsbD 7) && (r.getLsbD 7 != s.a.getLsbD 7)) := by
    rw [BitVec.getLsbD_and, BitVec.getLsbD_xor, BitVec.getLsbD_xor]
    cases s.a.getLsbD 7 <;> cases (operand m s).getLsbD 7 <;> cases r.getLsbD 7 <;> rfl
  rw [hv]
  exact hflags

/-- SBC complements its operand. -/
theorem xor_ff (v : Byte) : v ^^^ 0xFF = ~~~v := BitVec.xor_allOnes

theorem complement_toNat (v : Byte) : (v ^^^ 0xFF).toNat = 255 - v.toNat := by
  rw [xor_ff, BitVec.toNat_not]

theorem complement_bit7 (v : Byte) : (v ^^^ 0xFF).getLsbD 7 = !v.getLsbD 7 := by
  rw [xor_ff, BitVec.getLsbD_not, decide_eq_true (by decide), Bool.true_and]

theorem aluSub_toNat (r v p : Byte) :
    (aluSub r v p).1.toNat = (r.toNat + (255 - v.toNat) + (flagOf p .c).toNat) % 256 := by
  rw [aluSub, aluAdd_toNat, complement_toNat]

/-- The sum with the complement passes 255 exactly when nothing is borrowed. -/
theorem no_borrow_iff (r v : Byte) (c : Bool) :
    255 < r.toNat + (v ^^^ 0xFF).toNat + c.toNat ↔ v.toNat + (1 - c.toNat) ≤ r.toNat := by
  have hv := v.isLt
  have hc := c.toNat_le
  rw [complement_toNat]
  omega

/-- Settles O15: SBC is the addition of the complement, in numbers and in bit 7. -/
theorem sbcSubtractsWithBorrow : Obligations.SbcSubtractsWithBorrow := by
  refine ⟨fun _ _ => rfl, fun m s => ⟨_, _, aluInto_a_eq aluSub m s, aluSub_toNat .., ?_⟩⟩
  have hflags := aluAdd_flagsCVNZ s.a (operand m s ^^^ 0xFF) s.p
  have hv (a v r : Bool) : ((a == !v) && (r != a)) = decide (a ≠ v ∧ r ≠ a) := by
    cases a <;> cases v <;> cases r <;> rfl
  rw [decide_eq_decide.mpr (no_borrow_iff ..), complement_bit7, hv] at hflags
  exact hflags

/-- Settles O16: with the complemented carry the two additions make 256 more than A. -/
theorem sbcUndoesAdc : Obligations.SbcUndoesAdc := by
  intro s v
  refine ⟨_, _, rfl, rfl, BitVec.eq_of_toNat_eq ?_⟩
  change (aluSub (aluAdd s.a v s.p).1 v (withFlag _ .c (!flagOf s.p .c))).1.toNat = s.a.toNat
  rw [aluSub_toNat, aluAdd_toNat, flagOf_withFlag, if_pos rfl]
  have ha := s.a.isLt
  have hv := v.isLt
  cases flagOf s.p .c <;> simp only [Bool.not_true, Bool.not_false, Bool.toNat_true, Bool.toNat_false] <;> omega

/-! Comparison and bit test. -/

/-- The test's shape: PC past the operand, a new status word, and nothing else. -/
theorem aluTest_eq (r : Reg) (f : Byte → Byte → Byte → Byte) (m : Mode) (s : State) :
    aluTest r f m s = .next { s with pc := afterOperand m s, p := f (s.reg r) (operand m s) s.p } := rfl

theorem sub_eq_ofNat (r v : Byte) : r - v = BitVec.ofNat 8 (r.toNat + 256 - v.toNat) := by
  apply BitVec.eq_of_toNat_eq
  have := v.isLt
  rw [BitVec.toNat_sub, BitVec.toNat_ofNat]
  congr 1
  omega

theorem aluTest_compares (r : Reg) (m : Mode) (s : State) :
    ∃ q, aluTest r aluCompare m s = .next { s with pc := afterOperand m s, p := q } ∧
      flagOf q .z = decide (s.reg r = operand m s) ∧
      flagOf q .n = (BitVec.ofNat 8 ((s.reg r).toNat + 256 - (operand m s).toNat)).getLsbD 7 ∧
      flagOf q .c = decide ((operand m s).toInt ≤ (s.reg r).toInt) ∧
      ∀ f, f ≠ .z → f ≠ .n → f ≠ .c → flagOf q f = flagOf s.p f := by
  obtain ⟨hc, hn, hz, hother⟩ := flagsCNZ_setCNZ s.p (decide ((operand m s).toInt ≤ (s.reg r).toInt))
    (s.reg r - operand m s)
  refine ⟨_, aluTest_eq r aluCompare m s, hz.trans ?_, hn.trans ?_, hc, fun f fz fn fc => hother f fc fn fz⟩
  · refine decide_eq_decide.mpr ⟨fun h => ?_, fun h => ?_⟩
    · exact BitVec.sub_eq_iff_eq_add.mp (BitVec.eq_of_toNat_eq h) |>.trans (BitVec.zero_add _)
    · rw [h, BitVec.sub_self]
      rfl
  · rw [sub_eq_ofNat]

/-- Settles O17: each of the three is `aluTest` of its register with the comparison. -/
theorem compareInstructions : Obligations.CompareInstructions := by
  refine ⟨fun _ _ => rfl, fun _ _ => rfl, fun _ _ => rfl, fun m s x hx => ?_⟩
  simp only [List.mem_cons, List.not_mem_nil, or_false] at hx
  obtain rfl | rfl | rfl := hx
  · exact aluTest_compares .a m s
  · exact aluTest_compares .x m s
  · exact aluTest_compares .y m s

/-- Settles O23: `aluTest` of A, and flag by flag what `aluBit` writes. -/
theorem bitTest : Obligations.BitTest := by
  refine ⟨fun _ _ => rfl, fun m s => ⟨_, aluTest_eq .a aluBit m s, ?z, ?n, ?v, fun f hz hn hv => ?other⟩⟩
  case z => rw [flagOf_aluBit, if_pos rfl, beq_eq_decide]; rfl
  case n => rw [flagOf_aluBit, if_neg (by decide), if_pos rfl]
  case v => rw [flagOf_aluBit, if_neg (by decide), if_neg (by decide), if_pos rfl]
  case other => rw [flagOf_aluBit, if_neg hz, if_neg hn, if_neg hv]

/-! Transfers. -/

/-- The transfer's shape: the source byte in the destination, N and Z from it. -/
theorem transfer_copies (src dst : Reg) (s : State) :
    ∃ q, transfer src dst s = .next (State.setReg { s with p := q } dst (s.reg src)) ∧ FlagsNZ s.p q (s.reg src) :=
  ⟨setNZ s.p (s.reg src), by cases dst <;> rfl, flagsNZ_setNZ _ _⟩

/-- Settles O26: each of the six is `transfer` between its registers. -/
theorem registerTransfers : Obligations.RegisterTransfers :=
  ⟨fun _ _ => rfl, fun s => ⟨transfer_copies .a .x s, transfer_copies .a .y s, transfer_copies .x .a s,
    transfer_copies .y .a s, transfer_copies .s .x s, transfer_copies .x .s s⟩⟩

end Sys2Proof.Machine
end

section
/-! Shifts, rotates and memory increments (42_shift_rmw_group2 R171 to R177): the results in numbers, and what a
read-modify-write instruction does to memory. -/

namespace Sys2Proof.Machine

/-! The results. -/

theorem aluAsl_toNat (v p : Byte) : (aluAsl v p).1.toNat = v.toNat * 2 % 256 := by
  rw [aluAsl, BitVec.toNat_shiftLeft, Nat.shiftLeft_eq, pow_one]

theorem aluLsr_toNat (v p : Byte) : (aluLsr v p).1.toNat = v.toNat / 2 := by
  rw [aluLsr, BitVec.toNat_ushiftRight, Nat.shiftRight_eq_div_pow, pow_one]

/-- The carry as a byte. -/
theorem carryByte_toNat (c : Bool) : ((BitVec.ofBool c).setWidth 8).toNat = c.toNat := by
  cases c <;> rfl

theorem carryByte_getLsbD (c : Bool) (i : Nat) : ((BitVec.ofBool c).setWidth 8).getLsbD i = (decide (i = 0) && c) := by
  cases c <;> cases i <;> simp

theorem getLsbD_ushiftRight_one_bit7 (v : Byte) : (v >>> 1).getLsbD 7 = false := by
  rw [BitVec.getLsbD_ushiftRight]
  exact BitVec.getLsbD_of_ge v _ (by decide)

/-- The carry goes into the bit that the shift left clear, so that it is added. -/
theorem aluRol_toNat (v p : Byte) : (aluRol v p).1.toNat = v.toNat * 2 % 256 + (flagOf p .c).toNat := by
  have hdisjoint : v <<< 1 &&& (BitVec.ofBool (flagOf p .c)).setWidth 8 = 0 := by
    apply BitVec.eq_of_getLsbD_eq
    intro i hi
    rw [BitVec.getLsbD_and, carryByte_getLsbD, BitVec.getLsbD_shiftLeft]
    cases i <;> simp
  have hc := (flagOf p .c).toNat_le
  have hasl := aluAsl_toNat v p
  simp only [aluAsl] at hasl
  rw [aluRol, ← BitVec.add_eq_or_of_and_eq_zero _ _ hdisjoint, BitVec.toNat_add, hasl, carryByte_toNat]
  omega

theorem aluRor_bit7 (v p : Byte) : (aluRor v p).1.getLsbD 7 = flagOf p .c := by
  rw [aluRor, BitVec.getLsbD_or, getLsbD_ushiftRight_one_bit7, BitVec.getLsbD_shiftLeft, carryByte_getLsbD]
  cases flagOf p .c <;> rfl

theorem aluRor_toNat (v p : Byte) : (aluRor v p).1.toNat = v.toNat / 2 + (flagOf p .c).toNat * 128 := by
  have hdisjoint : v >>> 1 &&& (BitVec.ofBool (flagOf p .c)).setWidth 8 <<< 7 = 0 := by
    apply BitVec.eq_of_getLsbD_eq
    intro i hi
    rw [BitVec.getLsbD_and, BitVec.getLsbD_shiftLeft]
    by_cases h7 : i = 7
    · rw [h7, getLsbD_ushiftRight_one_bit7]
      simp
    · have : i < 7 := by omega
      simp [this]
  have hv := v.isLt
  have hc := (flagOf p .c).toNat_le
  have hlsr := aluLsr_toNat v p
  simp only [aluLsr] at hlsr
  rw [aluRor, ← BitVec.add_eq_or_of_and_eq_zero _ _ hdisjoint, BitVec.toNat_add, hlsr, BitVec.toNat_shiftLeft,
    carryByte_toNat, Nat.shiftLeft_eq]
  omega

/-! The shapes, and what a read-modify-write instruction does to memory. -/

/-- The write is made in the state with PC past the operand and the new status word, on neither of which protection
depends. -/
theorem modifyMem_modifiesMemory {i : Instr} {f : Byte → Byte → AluOut} {m : Mode} {s : State}
    (h : exec i s = modifyMem f m s) :
    ModifiesMemory i m s (f (memRead s (ea m s)) s.p).1 (f (memRead s (ea m s)) s.p).2 := by
  rw [ModifiesMemory, h]
  exact ⟨fun hp => memWrite_storedAt hp, fun hp => memWrite_fault hp⟩

theorem modifyReg_a_eq (f : Byte → Byte → AluOut) (s : State) :
    modifyReg .a f s = .next { s with a := (f s.a s.p).1, p := (f s.a s.p).2 } := modifyReg_eq .a f s

theorem aluAsl_flags (v p : Byte) : FlagsCNZ p (aluAsl v p).2 (v.getLsbD 7) (aluAsl v p).1 :=
  msb_eq_bit7 v ▸ flagsCNZ_setCNZ ..

theorem aluRol_flags (v p : Byte) : FlagsCNZ p (aluRol v p).2 (v.getLsbD 7) (aluRol v p).1 :=
  msb_eq_bit7 v ▸ flagsCNZ_setCNZ ..

theorem aluLsr_flags (v p : Byte) : FlagsCNZ p (aluLsr v p).2 (v.getLsbD 0) (aluLsr v p).1 :=
  flagsCNZ_setCNZ ..

theorem aluRor_flags (v p : Byte) : FlagsCNZ p (aluRor v p).2 (v.getLsbD 0) (aluRor v p).1 :=
  flagsCNZ_setCNZ ..

/-- Settles O19: each form is its shape with the operation, whose result and flags are above. -/
theorem leftShifts : Obligations.LeftShifts :=
  ⟨fun _ _ => rfl, fun _ _ => rfl,
    fun s => ⟨_, _, modifyReg_a_eq aluAsl s, aluAsl_toNat .., aluAsl_flags ..⟩,
    fun s => ⟨_, _, modifyReg_a_eq aluRol s, aluRol_toNat .., aluRol_flags ..⟩,
    fun _ _ => ⟨_, _, aluAsl_toNat .., aluAsl_flags .., modifyMem_modifiesMemory rfl⟩,
    fun _ _ => ⟨_, _, aluRol_toNat .., aluRol_flags .., modifyMem_modifiesMemory rfl⟩⟩

/-- Settles O20: as the left shifts; bit 7 of the accumulator's result is clear, or the old carry. -/
theorem rightShifts : Obligations.RightShifts := by
  refine ⟨fun _ _ => rfl, fun _ _ => rfl,
    fun s => ⟨_, _, modifyReg_a_eq aluLsr s, aluLsr_toNat .., aluLsr_flags .., ?lsr_n⟩,
    fun s => ⟨_, _, modifyReg_a_eq aluRor s, aluRor_toNat .., aluRor_flags .., ?ror_n⟩,
    fun _ _ => ⟨_, _, aluLsr_toNat .., aluLsr_flags .., modifyMem_modifiesMemory rfl⟩,
    fun _ _ => ⟨_, _, aluRor_toNat .., aluRor_flags .., modifyMem_modifiesMemory rfl⟩⟩
  case lsr_n =>
    obtain ⟨-, hn, -⟩ := aluLsr_flags s.a s.p
    exact hn.trans (getLsbD_ushiftRight_one_bit7 s.a)
  case ror_n =>
    obtain ⟨-, hn, -⟩ := aluRor_flags s.a s.p
    exact hn.trans (aluRor_bit7 s.a s.p)

/-- Settles O22: the memory shape with the increment and the decrement. -/
theorem memoryIncrementDecrement : Obligations.MemoryIncrementDecrement :=
  ⟨fun _ _ => rfl, fun _ _ => rfl,
    fun _ _ => ⟨_, _, toNat_inc _, flagsNZ_setNZ .., modifyMem_modifiesMemory (f := aluInc) rfl⟩,
    fun _ _ => ⟨_, _, toNat_dec _, flagsNZ_setNZ .., modifyMem_modifiesMemory (f := aluDec) rfl⟩⟩

/-! Nine rotations. -/

/-- C and A as a word of nine bits: A's bits, then C. -/
def nineBits (s : State) (i : Nat) : Bool := if i = 8 then s.flag .c else s.a.getLsbD i

theorem aluRol_getLsbD (v p : Byte) (i : Nat) (hi : i < 8) :
    (aluRol v p).1.getLsbD i = if i = 0 then flagOf p .c else v.getLsbD (i - 1) := by
  rw [aluRol, BitVec.getLsbD_or, BitVec.getLsbD_shiftLeft, carryByte_getLsbD]
  cases i with
  | zero => rfl
  | succ i => simp [hi]

/-- One ROL moves every one of the nine bits one place up, C to bit 0. -/
theorem rol_nineBits (s : State) :
    ∃ t, exec (.rol .acc) s = .next t ∧ ∀ i < 9, nineBits t i = nineBits s ((i + 8) % 9) := by
  refine ⟨_, modifyReg_a_eq aluRol s, fun i hi => ?_⟩
  have hc : flagOf (aluRol s.a s.p).2 .c = s.a.getLsbD 7 := (aluRol_flags s.a s.p).1
  simp only [nineBits, State.flag]
  by_cases h8 : i = 8
  · subst h8
    exact hc
  · rw [if_neg h8, aluRol_getLsbD _ _ _ (by omega)]
    by_cases h0 : i = 0
    · subst h0; rfl
    · have : (i + 8) % 9 = i - 1 := by omega
      rw [if_neg h0, this, if_neg (by omega)]

theorem rols_nineBits (s : State) (n : Nat) :
    ∃ t, Nat.repeat (fun r => andThen r (exec (.rol .acc))) n (.next s) = .next t ∧
      ∀ i < 9, nineBits t i = nineBits s ((i + 8 * n) % 9) := by
  induction n with
  | zero => exact ⟨s, rfl, fun i hi => by rw [Nat.mul_zero, Nat.add_zero, Nat.mod_eq_of_lt hi]⟩
  | succ n ih =>
    obtain ⟨t, ht, hbits⟩ := ih
    obtain ⟨u, hu, hrol⟩ := rol_nineBits t
    refine ⟨u, by rw [Nat.repeat, ht, andThen_next, hu], fun i hi => ?_⟩
    rw [hrol i hi, hbits _ (Nat.mod_lt _ (by decide))]
    congr 1
    omega

/-- Settles O21: nine places up is no move among nine bits. -/
theorem nineRolsRestoreAccumulatorAndCarry : Obligations.NineRolsRestoreAccumulatorAndCarry := by
  intro s
  obtain ⟨t, ht, hbits⟩ := rols_nineBits s 9
  have hsame (i : Nat) (hi : i < 9) : nineBits t i = nineBits s i := by
    rw [hbits i hi]
    congr 1
    omega
  refine ⟨t, ht, BitVec.eq_of_getLsbD_eq fun i hi => ?_, hsame 8 (by decide)⟩
  have := hsame i (by omega)
  rwa [nineBits, nineBits, if_neg (by omega), if_neg (by omega)] at this

end Sys2Proof.Machine
end

section
/-! The stack (10_state R24 to R26, 44_single_byte R219 to R223, 45_control_flow R252 to R258, 60_exceptions R298, R299): one
byte pushed and pulled, a run of bytes pushed, and from these JSR, BRK and RTI. -/

namespace Sys2Proof.Machine

/-! One byte. -/

theorem storedAt_pushed (s : State) (v : Byte) : StoredAt { s with s := s.s - 1 } (pushed s v) (stackAddr s.s) v := by
  refine ⟨readCell_pushed s v, memRead_pushed s v, ?_⟩
  obtain ⟨flat, banks, h⟩ := pushed_keeps s v
  rw [h]

/-- Settles O27: both are pushes, which are never turned away. -/
theorem pushes : Obligations.Pushes :=
  ⟨fun _ _ => rfl, fun s => ⟨stackAddr_toNat s.s, ⟨_, push_eq s s.a, storedAt_pushed s s.a⟩,
    ⟨_, push_eq s s.p, storedAt_pushed s s.p⟩⟩⟩

theorem execPla_eq (s : State) : exec .pla s = .next { s with
    s := s.s + 1
    a := memRead s (stackAddr (s.s + 1))
    p := setNZ s.p (memRead s (stackAddr (s.s + 1))) } := rfl

theorem execPlp_eq (s : State) :
    exec .plp s = .next { s with s := s.s + 1, p := memRead s (stackAddr (s.s + 1)) } := rfl

/-- Settles O28: `execPla_eq`, `execPlp_eq`. -/
theorem pulls : Obligations.Pulls := by
  refine ⟨fun _ _ => rfl, fun s => ⟨?_, ⟨_, execPla_eq s, flagsNZ_setNZ _ _⟩, execPlp_eq s⟩⟩
  rw [stackAddr_toNat, toNat_inc]

/-- A push leaves the pointer one below the byte. -/
theorem pushed_s_add_one (s : State) (v : Byte) : (pushed s v).s + 1 = s.s := by
  rw [pushed_s, BitVec.sub_add_cancel]

/-- Settles O29: the byte on top of the stack after a push is the byte pushed. -/
theorem pullRestoresPushed : Obligations.PullRestoresPushed := by
  intro s b
  have hs (v : Byte) := pushed_s_add_one s v
  have hv (v : Byte) : memRead (pushed s v) (stackAddr ((pushed s v).s + 1)) = v := by rw [hs, memRead_pushed_top]
  have hplp : exec .plp { pushed s s.p with p := b } = .next { pushed s s.p with
      s := (pushed s s.p).s + 1, p := memRead (pushed s s.p) (stackAddr ((pushed s s.p).s + 1)) } := execPlp_eq _
  rw [hs, memRead_pushed_top] at hplp
  refine ⟨_, _, _, push_eq s s.a, execPla_eq _, hv s.a, hs s.a, push_eq s s.p, hplp.trans ?_⟩
  have hp := pushed_p s s.p
  generalize pushed s s.p = w at hp ⊢
  rw [← hp]

/-! A run of bytes. -/

/-- The cells that the push after `k` others writes. -/
def State.stackCells (s : State) (k : Nat) : List CellRef := s.storedCells (stackAddr (s.s - BitVec.ofNat 8 k))

theorem State.stackCells_zero (s : State) : s.stackCells 0 = s.storedCells (stackAddr s.s) := by
  rw [State.stackCells, BitVec.sub_zero]

theorem sub_one_sub_ofNat (p : Byte) (k : Nat) : p - 1 - BitVec.ofNat 8 k = p - BitVec.ofNat 8 (k + 1) := by
  rw [BitVec.ofNat_add]
  bv_omega

theorem State.stackCells_pushed (s : State) (v : Byte) (k : Nat) : (pushed s v).stackCells k = s.stackCells (k + 1) := by
  rw [State.stackCells, State.stackCells, storedCells_pushed, pushed_s, sub_one_sub_ofNat]

/-- Fewer than 256 pushes later the pointer is at another stack cell. -/
theorem State.stackCells_disjoint (s : State) {k : Nat} (h0 : 0 < k) (hk : k < 256) {c : CellRef}
    (hc : c ∈ s.stackCells 0) : c ∉ s.stackCells k := by
  intro hc'
  have h1 := State.storedCells_index_mod hc
  have h2 := State.storedCells_index_mod hc'
  rw [stackAddr_toNat] at h1 h2
  have hp := (s.s - BitVec.ofNat 8 0).isLt
  have hq := (s.s - BitVec.ofNat 8 k).isLt
  have hs := s.s.isLt
  simp only [BitVec.toNat_sub, BitVec.toNat_ofNat] at h1 h2 hp hq
  omega

/-- A cell that no push writes keeps its byte. -/
theorem readCell_pushes_other (bytes : List Byte) : ∀ (s : State) (c : CellRef),
    (∀ k < bytes.length, c ∉ s.stackCells k) → (bytes.foldl pushed s).readCell c = s.readCell c := by
  induction bytes with
  | nil => exact fun _ _ _ => rfl
  | cons b bytes ih =>
    intro s c hc
    rw [List.foldl_cons, ih, readCell_pushed, if_neg (s.stackCells_zero ▸ hc 0 (Nat.zero_lt_succ _))]
    intro k hk
    rw [State.stackCells_pushed]
    exact hc (k + 1) (Nat.succ_lt_succ hk)

/-- Up to 256 pushes, the stack page's size, do not overwrite each other. -/
theorem readCell_pushes_same (bytes : List Byte) : ∀ (s : State) (k : Nat) (v : Byte) (c : CellRef),
    bytes.length ≤ 256 → bytes[k]? = some v → c ∈ s.stackCells k → (bytes.foldl pushed s).readCell c = v := by
  induction bytes with
  | nil => intro s k v c _ hv; cases hv
  | cons b bytes ih =>
    intro s k v c hlen hv hc
    rw [List.length_cons] at hlen
    rw [List.foldl_cons]
    cases k with
    | zero =>
      cases hv
      rw [readCell_pushes_other, readCell_pushed, if_pos (s.stackCells_zero ▸ hc)]
      intro k hk
      rw [State.stackCells_pushed]
      exact s.stackCells_disjoint (Nat.succ_pos k) (by omega) hc
    | succ k => exact ih _ k v c (by omega) hv (by rwa [State.stackCells_pushed])

@[simp] theorem cellOf_pushes (bytes : List Byte) (a : Addr) : ∀ s : State,
    (bytes.foldl pushed s).cellOf a = s.cellOf a := by
  induction bytes with
  | nil => exact fun _ => rfl
  | cons b bytes ih => exact fun s => (ih _).trans (cellOf_pushed s b a)

/-- Pushes one after another leave every byte in its cells and every other cell as it was. -/
theorem pushedBytes_pushes (s : State) (bytes : List Byte) (hlen : bytes.length ≤ 256) :
    PushedBytes s (bytes.foldl pushed s) bytes := by
  refine ⟨fun k v hv => ⟨?_, fun c hc => ?_⟩, fun c hc => ?_, fun b hb => ?_⟩
  · rw [memRead, cellOf_pushes]
    exact readCell_pushes_same bytes s k v _ hlen hv (s.cellOf_mem_storedCells _)
  · exact readCell_pushes_same bytes s k v c hlen hv hc
  · exact readCell_pushes_other bytes s c hc
  · rw [memRead, cellOf_pushes]
    exact readCell_pushes_other bytes s _ hb

section
variable {s t : State} {bytes : List Byte}

theorem PushedBytes.setPc (h : PushedBytes s t bytes) (pc : Addr) : PushedBytes s (t.setPc pc) bytes := h

theorem PushedBytes.setFlag (h : PushedBytes s t bytes) (f : Flag) (b : Bool) :
    PushedBytes s (t.setFlag f b) bytes := h

theorem PushedBytes.of_advance {n : Nat} (h : PushedBytes (advance n s) t bytes) : PushedBytes s t bytes := h

end

theorem pushes_keeps (bytes : List Byte) : ∀ s : State, ∃ flat banks,
    bytes.foldl pushed s = { s with s := s.s - BitVec.ofNat 8 bytes.length, flat := flat, banks := banks } := by
  induction bytes with
  | nil => exact fun s => ⟨s.flat, s.banks, by rw [List.length_nil, BitVec.sub_zero]; rfl⟩
  | cons b bytes ih =>
    intro s
    obtain ⟨flat, banks, h⟩ := ih (pushed s b)
    obtain ⟨_, _, hb⟩ := pushed_keeps s b
    refine ⟨flat, banks, ?_⟩
    rw [List.foldl_cons, h, hb, List.length_cons, sub_one_sub_ofNat]

/-! Call, break and return. -/

theorem loByte_eq_ofNat (a : Addr) : loByte a = BitVec.ofNat 8 (a.toNat % 256) := by
  apply BitVec.eq_of_toNat_eq
  simp [loByte]

theorem hiByte_eq_ofNat (a : Addr) : hiByte a = BitVec.ofNat 8 (a.toNat / 256) := by
  apply BitVec.eq_of_toNat_eq
  simp [hiByte, Nat.shiftRight_eq_div_pow]

/-- Settles O33: JSR is two pushes and a jump. -/
theorem subroutineCall : Obligations.SubroutineCall := by
  refine ⟨fun _ _ => rfl, fun a s => ⟨_, execJsr_eq a s, ?_, ?_⟩⟩
  · obtain ⟨flat, banks, h⟩ := pushes_keeps [loByte (s.pc + 1), hiByte (s.pc + 1)] s
    rw [List.foldl_cons, List.foldl_cons, List.foldl_nil] at h
    rw [h]
    rfl
  · rw [← loByte_eq_ofNat, ← hiByte_eq_ofNat]
    exact pushedBytes_pushes s [loByte (s.pc + 1), hiByte (s.pc + 1)] (by simp)

/-- What BRK does: three bytes pushed, B set, PC from the vector, nothing else. -/
theorem execBrk_enters (s : State) : ∃ t, exec .brk s = .next t ∧
    t = { s with pc := t.pc, s := s.s - 3, p := t.p, flat := t.flat, banks := t.banks } ∧
    PushedBytes s t [loByte (s.pc + 1), hiByte (s.pc + 1), s.p] ∧ t.p = withFlag s.p .b true ∧
    t.pc = word (memRead t 0xFFFF) (memRead t 0xFFFE) := by
  refine ⟨_, execBrk_eq s, ?_, ?_, ?_, rfl⟩
  · obtain ⟨flat, banks, h⟩ := pushes_keeps [loByte (s.pc + 1), hiByte (s.pc + 1), s.p] (advance 1 s)
    simp only [List.foldl_cons, List.foldl_nil] at h
    rw [h]
    rfl
  · have hpushed := pushedBytes_pushes (advance 1 s) [loByte (s.pc + 1), hiByte (s.pc + 1), s.p] (by simp)
    exact ((hpushed.setFlag .b true).setPc _).of_advance
  · simp

/-- Settles O35: `execBrk_enters`. -/
theorem breakEntry : Obligations.BreakEntry := by
  refine ⟨fun _ _ => rfl, fun s => ?_⟩
  obtain ⟨t, ht, hframe, hpushed, hp, hpc⟩ := execBrk_enters s
  rw [loByte_eq_ofNat, hiByte_eq_ofNat] at hpushed
  exact ⟨t, ht, hframe, hpushed, hp ▸ flagOnly_withFlag s.p .b true, hpc⟩

theorem execRti_eq (s : State) : exec .rti s = .next { s with
    p := memRead s (stackAddr (s.s + 1))
    s := s.s + 3
    pc := word (memRead s (stackAddr (s.s + 2))) (memRead s (stackAddr (s.s + 3))) } := by
  have h2 : s.s + 1 + 1 = s.s + 2 := BitVec.add_assoc s.s 1 1
  have h3 : s.s + 2 + 1 = s.s + 3 := BitVec.add_assoc s.s 2 1
  rw [← h3, ← h2]
  rfl

/-- RTI after BRK: the three bytes pushed are the three pulled. -/
theorem execRti_after_brk (s : State) : ∃ t, exec .brk s = .next t ∧
    exec .rti t = .next { t with pc := s.pc + 1, s := s.s, p := s.p } := by
  obtain ⟨t, ht, hframe, ⟨hbytes, -, -⟩, -, -⟩ := execBrk_enters s
  have hread (k : Nat) (v : Byte) (hv : [loByte (s.pc + 1), hiByte (s.pc + 1), s.p][k]? = some v) :
      memRead t (stackAddr (s.s - BitVec.ofNat 8 k)) = v := (hbytes k v hv).1
  have hs : t.s = s.s - 3 := congrArg State.s hframe
  have h1 : t.s + 1 = s.s - BitVec.ofNat 8 2 := by rw [hs]; bv_omega
  have h2 : t.s + 2 = s.s - BitVec.ofNat 8 1 := by rw [hs]; bv_omega
  have h3 : t.s + 3 = s.s - BitVec.ofNat 8 0 := by rw [hs]; bv_omega
  refine ⟨t, ht, ?_⟩
  rw [execRti_eq, h1, h2, h3, hread 0 _ rfl, hread 1 _ rfl, hread 2 _ rfl, word_hiByte_loByte, BitVec.sub_zero]

/-- Settles O36: `execRti_eq` and `execRti_after_brk`. -/
theorem breakReturn : Obligations.BreakReturn := by
  refine ⟨fun _ _ => rfl, execRti_eq, fun s => ?_⟩
  obtain ⟨t, hbrk, hrti⟩ := execRti_after_brk s
  exact ⟨t, _, hbrk, hrti, rfl⟩

/-! Unknown opcodes. -/

theorem latchUnknown_keeps (s : State) (op : Byte) : latchUnknown s op =
    { s with err := .unknown, p := (latchUnknown s op).p, pc := (latchUnknown s op).pc } := by
  unfold latchUnknown
  split <;> rfl

theorem latchUnknown_pc_of_low_bits {op : Byte} (h : op.toNat % 4 = 3) (s : State) : (latchUnknown s op).pc = s.pc := by
  rw [latchUnknown, if_pos h]
  rfl

/-- The free choice of PC is one of three. -/
theorem latchUnknown_pc (s : State) (op : Byte) : (latchUnknown s op).pc = s.pc ∨ (latchUnknown s op).pc = s.pc + 1 ∨
    (latchUnknown s op).pc = s.pc + 2 := by
  by_cases h : op.toNat % 4 = 3
  · exact .inl (latchUnknown_pc_of_low_bits h s)
  · rw [latchUnknown, if_neg h, State.setPc_pc]
    match Config.freeSkip s.draws with
    | 0 => exact .inl (BitVec.add_zero _)
    | 1 => exact .inr (.inl rfl)
    | 2 => exact .inr (.inr rfl)

/-- Settles O38: the latch's frame, its one flag and its PC. -/
theorem unknownOpcodeLatches : Obligations.UnknownOpcodeLatches := by
  refine fun op s => ⟨_, rfl, latchUnknown_keeps s op, fun f hf => ?_, fun h => latchUnknown_pc_of_low_bits h s,
    latchUnknown_pc s op⟩
  rw [latchUnknown_p, flagOf_withFlag, if_neg hf.symm]

end Sys2Proof.Machine
end

section
/-! Runs (46_dispatch_loop R273 to R281): what one step does to the budget and the latched error, the cases of one check of the
loop, and by induction on the bound that every Run ends. -/

namespace Sys2Proof.Machine

/-! One step. -/

theorem step_budget {s t : State} (h : step s = .next t) :
    t.budget = s.budget - min s.budget (s.cycleCost (opcodeAt s)) := by
  obtain ⟨-, u, hu, rfl⟩ := step_next h
  exact (exec_registers hu).budget

theorem step_params {s t : State} (h : step s = .next t) : t.params = s.params := (step_reaches h).sameConfig.2.2

/-- With no error latched a step latches the error of the instruction it fetches. -/
theorem step_err {s t : State} (h : step s = .next t) : t.err = (latches (fetchInstr s)).getD .none := by
  obtain ⟨herr, u, hu, rfl⟩ := step_next h
  rw [← herr]
  exact (exec_registers hu).err

/-- An error latched is an error. -/
theorem latches_ne_none (i : Instr) : latches i ≠ some .none := by
  cases i <;> simp [latches]

/-- Where costs are positive a step that latches no error takes something from a budget that has something. -/
theorem step_budget_lt {s t : State} (hcost : s.params.costsPositive) (h : step s = .next t) (herr : t.err = .none)
    (hb : s.budget ≠ 0) : t.budget < s.budget := by
  have hl : latches (fetchInstr s) = none := by
    have herr' := (step_err h).symm.trans herr
    cases hl : latches (fetchInstr s) with
    | none => rfl
    | some e =>
      rw [hl] at herr'
      have he : e = .none := herr'
      exact absurd (he ▸ hl) (latches_ne_none _)
  have hpos : 0 < s.cycleCost (opcodeAt s) := hcost _ _ _ hl
  rw [step_budget h]
  omega

/-! One check of the loop. -/

theorem run_of_no_error {s : State} (h : s.err = .none) (bound n : Nat) (arrivals : List Bool) :
    run bound n arrivals s = runLoop bound arrivals { s with budget := n } := by
  rw [run, if_neg (not_not.mpr h)]

theorem arrive_budget (request : Bool) (s : State) : (arrive request s).budget = s.budget := by cases request <;> rfl

theorem arrive_err (request : Bool) (s : State) : (arrive request s).err = s.err := by cases request <;> rfl

/-- With no stop request pending none has arrived. -/
theorem arrive_eq_self {request : Bool} {s : State} (h : (arrive request s).stop = false) : arrive request s = s := by
  cases request with
  | true => cases h
  | false => rfl

section
variable {arrivals : List Bool} {s : State} (bound : Nat)

theorem runLoop_latched (h : s.err ≠ .none) : runLoop (bound + 1) arrivals s =
    .next ⟨endByError s.err, s.budget, arrive (arrivals.headD false) s⟩ := by
  rw [runLoop]
  simp only [arrive_budget, arrive_err]
  by_cases hb : s.budget = 0
  · rw [if_pos hb, hb]
  · rw [if_neg hb, if_pos h]

theorem runLoop_exhausted (h : s.budget = 0) : runLoop (bound + 1) arrivals s =
    .next ⟨endByError s.err, 0, arrive (arrivals.headD false) s⟩ := by
  rw [runLoop]
  simp only [arrive_budget, arrive_err]
  rw [if_pos h]

variable (hb : s.budget ≠ 0) (herr : s.err = .none)
include hb herr

theorem runLoop_stopped (hstop : (arrive (arrivals.headD false) s).stop = true) : runLoop (bound + 1) arrivals s =
    .next ⟨.stopped, s.budget, { arrive (arrivals.headD false) s with stop := false }⟩ := by
  rw [runLoop]
  simp only [arrive_budget, arrive_err]
  rw [if_neg hb, if_neg (not_not.mpr herr), if_pos hstop]

theorem runLoop_step {t : State} (hstop : (arrive (arrivals.headD false) s).stop = false) (ht : step s = .next t) :
    runLoop (bound + 1) arrivals s = runLoop bound arrivals.tail t := by
  have hs := arrive_eq_self hstop
  rw [hs] at hstop
  simp only [runLoop, hs, hb, herr, hstop, ht, ne_eq, not_true, if_false, Bool.false_eq_true]

theorem runLoop_fault {e : Fault} (hstop : (arrive (arrivals.headD false) s).stop = false) (he : step s = .fault e) :
    runLoop (bound + 1) arrivals s = .fault e := by
  have hs := arrive_eq_self hstop
  rw [hs] at hstop
  simp only [runLoop, hs, hb, herr, hstop, he, ne_eq, not_true, if_false, Bool.false_eq_true]

end

/-! Every Run. -/

/-- One of the four ends of a Run, with the budget left returned (46_dispatch_loop R281). -/
def RunResult.Ends (r : RunResult) : Prop :=
  r.cyclesLeft = r.state.budget ∧
    ((r.ended = .exhausted ∧ r.state.budget = 0 ∧ r.state.err = .none) ∨
     (r.ended = .stopped ∧ 0 < r.state.budget ∧ r.state.err = .none ∧ r.state.stop = false) ∨
     (r.ended = .locked ∧ r.state.err = .locked) ∨
     (r.ended = .unknown ∧ r.state.err = .unknown))

theorem RunResult.ends_of_latched {s : State} (h : s.err ≠ .none) :
    RunResult.Ends ⟨endByError s.err, s.budget, s⟩ := by
  refine ⟨rfl, .inr (.inr ?_)⟩
  cases herr : s.err with
  | none => exact absurd herr h
  | locked => exact .inl ⟨rfl, rfl⟩
  | unknown => exact .inr ⟨rfl, rfl⟩

/-- The write-protect fault of an address that these parameters guard. -/
def ProtectFault (p : Params) (o : Host.Outcome RunResult Fault Refusal) : Prop :=
  ∃ a, o = .fault (.writeProtect a) ∧ p.roEnforce = true ∧ p.guarded a = true

/-- What one check of the loop does, whatever bound is left: it ends the Run, goes on with the state of one step, or is
abandoned by a write-protect fault. -/
theorem runLoop_check (arrivals : List Bool) (s : State) :
    (∃ r, RunResult.Ends r ∧ ∀ bound, runLoop (bound + 1) arrivals s = .next r) ∨
    (s.budget ≠ 0 ∧ s.err = .none ∧ ∃ t, step s = .next t ∧
      ∀ bound, runLoop (bound + 1) arrivals s = runLoop bound arrivals.tail t) ∨
    (∃ o, ProtectFault s.params o ∧ ∀ bound, runLoop (bound + 1) arrivals s = o) := by
  by_cases herr : s.err = .none
  · by_cases hb : s.budget = 0
    · have hb' := (arrive_budget (arrivals.headD false) s).trans hb
      refine .inl ⟨_, ⟨hb'.symm, .inl ⟨?_, hb', (arrive_err ..).trans herr⟩⟩, fun bound => runLoop_exhausted bound hb⟩
      rw [herr, endByError]
    · cases hstop : (arrive (arrivals.headD false) s).stop with
      | true =>
        have hb' := arrive_budget (arrivals.headD false) s
        have hpos := Nat.pos_of_ne_zero (hb'.trans_ne hb)
        exact .inl ⟨_, ⟨hb'.symm, .inr (.inl ⟨rfl, hpos, (arrive_err ..).trans herr, rfl⟩)⟩,
          fun bound => runLoop_stopped bound hb herr hstop⟩
      | false =>
        obtain ⟨⟨t, ht⟩ | ⟨a, ha, hro, hguard, -⟩, -⟩ := onlyWriteProtectStopsAStep s herr
        · exact .inr (.inl ⟨hb, herr, t, ht, fun bound => runLoop_step bound hb herr hstop ht⟩)
        · exact .inr (.inr ⟨_, ⟨a, rfl, hro, hguard⟩, fun bound => runLoop_fault bound hb herr hstop ha⟩)
  · refine .inl ⟨_, ?_, fun bound => runLoop_latched bound herr⟩
    rw [← arrive_err (arrivals.headD false) s, ← arrive_budget (arrivals.headD false) s]
    exact RunResult.ends_of_latched (arrive_err _ s ▸ herr)

/-- A Run ends or is abandoned by a write-protect fault. -/
def RunEnds (p : Params) (o : Host.Outcome RunResult Fault Refusal) : Prop :=
  (∃ r, o = .next r ∧ RunResult.Ends r) ∨ ProtectFault p o

theorem runLoop_ends_of_latched {s : State} (h : s.err ≠ .none) {bound : Nat} (hbound : 0 < bound)
    (arrivals : List Bool) :
    RunEnds s.params (runLoop bound arrivals s) := by
  obtain ⟨bound, rfl⟩ := Nat.exists_eq_add_one.mpr hbound
  obtain ⟨r, hr, hrun⟩ | ⟨-, herr, -⟩ | ⟨o, ho, hrun⟩ := runLoop_check arrivals s
  · exact .inl ⟨r, hrun bound, hr⟩
  · exact absurd herr h
  · exact .inr (hrun bound ▸ ho)

/-- A bound above the budget is enough: each check goes on with less of it, or with an error latched. -/
theorem runLoop_ends (bound : Nat) : ∀ (arrivals : List Bool) (s : State),
    s.params.costsPositive → s.budget < bound → RunEnds s.params (runLoop bound arrivals s) := by
  induction bound with
  | zero => exact fun _ s _ hb => absurd hb (Nat.not_lt_zero _)
  | succ bound ih =>
    intro arrivals s hcost hbound
    obtain ⟨r, hr, hrun⟩ | ⟨hb, herr, t, ht, hrun⟩ | ⟨o, ho, hrun⟩ := runLoop_check arrivals s
    · exact .inl ⟨r, hrun bound, hr⟩
    · rw [hrun, ← step_params ht]
      by_cases hterr : t.err = .none
      · have hlt := step_budget_lt hcost ht hterr hb
        exact ih _ t (step_params ht ▸ hcost) (by omega)
      · exact runLoop_ends_of_latched hterr (by omega) _
    · exact .inr (hrun bound ▸ ho)

theorem runLoop_larger_bound (more bound : Nat) : ∀ (arrivals : List Bool) (s : State),
    (∀ r, runLoop bound arrivals s = .next r → r.ended ≠ .unfinished) →
    runLoop (bound + more) arrivals s = runLoop bound arrivals s := by
  induction bound with
  | zero => exact fun _ s h => absurd rfl (h ⟨.unfinished, s.budget, s⟩ rfl)
  | succ bound ih =>
    intro arrivals s h
    rw [Nat.add_right_comm]
    obtain ⟨r, -, hrun⟩ | ⟨-, -, t, -, hrun⟩ | ⟨o, -, hrun⟩ := runLoop_check arrivals s
    · rw [hrun, hrun]
    · rw [hrun] at h
      rw [hrun, hrun, ih _ t h]
    · rw [hrun, hrun]

theorem defaultParams_costsPositive : defaultParams.costsPositive := fun op b1 b2 h =>
  Nat.lt_of_lt_of_le Nat.zero_lt_two ((costsAreAtLeastTwo op b1 b2).1 h).2

/-- Settles O51: `runLoop_ends`, `runLoop_larger_bound`, and the default table's entries; with an error latched a Run is no loop
at all. -/
theorem everyRunEnds : Obligations.EveryRunEnds := by
  refine ⟨fun bound n arrivals s hcost hbound => ?_, fun bound more n arrivals s h => ?_, defaultParams_costsPositive⟩
  · by_cases herr : s.err = .none
    · rw [run_of_no_error herr]
      exact runLoop_ends bound arrivals { s with budget := n } hcost hbound
    · exact .inl ⟨_, if_pos herr, RunResult.ends_of_latched herr⟩
  · by_cases herr : s.err = .none
    · simp only [run_of_no_error herr] at h ⊢
      exact runLoop_larger_bound more bound arrivals _ h
    · rw [run, run, if_pos herr, if_pos herr]

/-! Short Runs. -/

/-- Settles O52: one step takes the whole budget, and the second check finds it spent. -/
theorem exactCostRunsOneInstruction : Obligations.ExactCostRunsOneInstruction := by
  intro bound s t hbound herr hstop hcost ht
  obtain ⟨bound, rfl⟩ : ∃ b, bound = b + 1 + 1 := ⟨bound - 2, by omega⟩
  have hzero : t.budget = 0 := by
    rw [step_budget ht]
    exact Nat.sub_eq_zero_of_le (Nat.le_min.mpr ⟨le_rfl, le_rfl⟩)
  refine ⟨?_, hzero⟩
  have hstep := runLoop_step (arrivals := []) (s := { s with budget := s.cycleCost (memRead s s.pc) }) (bound + 1)
    hcost.ne' herr hstop ht
  exact (run_of_no_error herr ..).trans (hstep.trans (runLoop_exhausted bound hzero))

/-- The step that fetches a lock opcode. -/
theorem step_lock {s : State} (herr : s.err = .none) (hlock : opcodeAt s ∈ s.params.sets.lock) :
    step s = .next (endStep (latchLocked (beginStep s))) := by
  have hfetch : fetchInstr s = .kil (opcodeAt s) := (decodeOp_eq_kil_iff ..).mpr hlock
  rw [step_of_no_error herr, stepWith, hfetch]
  rfl

/-- Settles O53: one step latches the error, and the second check finds it. -/
theorem lockOpcodeEndsTheRun : Obligations.LockOpcodeEndsTheRun := by
  intro bound n s hbound herr hstop hn hlock
  obtain ⟨bound, rfl⟩ : ∃ b, bound = b + 1 + 1 := ⟨bound - 2, by omega⟩
  have hstep := step_lock (s := { s with budget := n }) herr hlock
  have hloop := runLoop_step (arrivals := []) (s := { s with budget := n }) (bound + 1) hn.ne' herr hstop hstep
  exact ⟨_, (run_of_no_error herr ..).trans (hloop.trans (runLoop_latched bound nofun)),
    rfl, rfl, rfl, rfl, rfl, rfl, rfl, rfl, fun _ => rfl⟩

/-- Settles O54: the first check finds the request. -/
theorem pendingStopEndsTheRun : Obligations.PendingStopEndsTheRun := by
  intro bound n arrivals s hbound herr hn
  obtain ⟨bound, rfl⟩ := Nat.exists_eq_add_one.mpr hbound
  have hstop : (arrive (arrivals.headD false) { requestStop s with budget := n }).stop = true := by
    cases arrivals.headD false <;> rfl
  have hend := runLoop_stopped (s := { requestStop s with budget := n }) bound hn.ne' herr hstop
  rw [run_of_no_error (s := requestStop s) herr, hend]
  cases arrivals.headD false <;> rfl

end Sys2Proof.Machine
end

section
/-! The host's operations on a session (20_memory R78, 60_exceptions R294, 10_state R47, R48): bank switching, the register
file, construction and the state after reset. -/

namespace Sys2Proof.Machine

/-! Bank switching. -/

theorem pageTable_get_set (pt : Vector PageEntry 16) (n : Nat) (hn : n < 16) (e : PageEntry) (i : Fin 16) :
    (pt.set n e hn).get i = if n = i.val then e else pt.get i :=
  Vector.getElem_set ..

/-- The page table with a bank's four sub-regions in a window. -/
def mapWindow (pt : Vector PageEntry 16) (k : Nat) : Window → Vector PageEntry 16
  | .low => (((pt.set 8 (.bank k 0)).set 9 (.bank k 1)).set 10 (.bank k 2)).set 11 (.bank k 3)
  | .high => (((pt.set 12 (.bank k 0)).set 13 (.bank k 1)).set 14 (.bank k 2)).set 15 (.bank k 3)

theorem mapWindow_get (pt : Vector PageEntry 16) (k : Nat) (w : Window) (i : Fin 16) : (mapWindow pt k w).get i =
    if (w = .low ∧ 8 ≤ i.val ∧ i.val < 12) ∨ (w = .high ∧ 12 ≤ i.val) then .bank k (Fin.ofNat 4 (i.val % 4))
    else pt.get i := by
  cases w <;> simp only [mapWindow, pageTable_get_set] <;> fin_cases i <;> rfl

theorem switchBank_eq {s : State} {k : Nat} (hcount : 2 < s.bankCount) (hk : k < s.bankCount) (w : Window) :
    switchBank s k w = .next { s with pt := mapWindow s.pt k w } := by
  unfold switchBank
  rw [if_neg (not_le.mpr hcount), if_neg (not_le.mpr hk)]
  cases w <;> rfl

theorem switchBank_small {s : State} (h : s.bankCount ≤ 2) (k : Nat) (w : Window) :
    switchBank s k w = .refused .switchBankSmallImage := if_pos h

theorem switchBank_missing {s : State} {k : Nat} (hcount : 2 < s.bankCount) (hk : s.bankCount ≤ k) (w : Window) :
    switchBank s k w = .refused .switchBankNoSuchBank := by
  unfold switchBank
  rw [if_neg (not_le.mpr hcount), if_pos hk]

/-- Settles O55: one equation for each case, and `mapWindow_get`. -/
theorem switchBankMapsOneWindow : Obligations.SwitchBankMapsOneWindow := fun s k =>
  ⟨fun hcount hk w => ⟨_, switchBank_eq hcount hk w, rfl, mapWindow_get s.pt k w⟩,
    fun h w => switchBank_small h k w, fun hcount hk w => switchBank_missing hcount hk w⟩

/-- A bank switch that is not refused is one to a bank there is. -/
theorem switchBank_next {s t : State} {k : Nat} {w : Window} (h : switchBank s k w = .next t) :
    k < s.bankCount ∧ t = { s with pt := mapWindow s.pt k w } := by
  by_cases hcount : s.bankCount ≤ 2
  · rw [switchBank_small hcount] at h
    cases h
  · by_cases hk : s.bankCount ≤ k
    · rw [switchBank_missing (not_le.mp hcount) hk] at h
      cases h
    · rw [switchBank_eq (not_le.mp hcount) (not_le.mp hk)] at h
      cases h
      exact ⟨not_le.mp hk, rfl⟩

/-- Settles O56: the entries written name the bank, and none is in slots 0 to 7. -/
theorem switchBankKeepsTheInvariant : Obligations.SwitchBankKeepsTheInvariant := by
  intro s t k w hs h
  obtain ⟨hk, rfl⟩ := switchBank_next h
  refine ⟨hs.flat_wf, hs.flat_size, hs.banks_wf, hs.banks_size, fun i => ?_, fun i hi => ?_⟩
  · rw [mapWindow_get]
    split
    · exact hk
    · exact hs.entries i
  · rw [mapWindow_get, if_neg (by omega)]
    exact hs.low_slots i hi

/-! The register file and construction. -/

/-- Settles O57, by evaluation: both operations write fields of the register file and of the session alone. -/
theorem reinitialiseClearsTheSession : Obligations.ReinitialiseClearsTheSession := by
  intro s r
  refine ⟨rfl, rfl, rfl, rfl, rfl, rfl, rfl, rfl, fun t ht => ?_⟩
  simp only [List.mem_cons, List.not_mem_nil, or_false] at ht
  obtain rfl | rfl := ht
  · exact ⟨rfl, rfl, rfl, rfl, rfl, fun _ => rfl⟩
  · exact ⟨rfl, rfl, rfl, rfl, rfl, fun _ => rfl⟩

/-- What makes the sessions over a mapper meet the invariant (10_state R44). -/
structure Mapper.Valid (m : Mapper) : Prop where
  flat_wf : Memory.wf m.flat
  flat_size : Memory.below m.flat 65536
  banks_wf : Memory.wf m.banks
  banks_size : Memory.below m.banks (m.bankCount * 16384)
  entries : ∀ i, (m.pt.get i).valid m.bankCount
  low_slots : ∀ i : Fin 16, i.val < 8 → m.pt.get i = .flat i

theorem Mapper.Valid.constructSession {m : Mapper} (h : m.Valid) (params : Params) (r : RegisterFile) :
    (constructSession params r m).Inv :=
  ⟨h.flat_wf, h.flat_size, h.banks_wf, h.banks_size, h.entries, h.low_slots⟩

/-- The initial PC is no part of the invariant. -/
theorem Mapper.Valid.bootSession {m : Mapper} (h : m.Valid) (params : Params) (r : RegisterFile) :
    (bootSession params r m).Inv :=
  (h.constructSession params r).of_sameMapper (.refl _)

theorem identityPageTable_valid (n : Nat) (i : Fin 16) : (identityPageTable.get i).valid n := by
  rw [identityPageTable_get]
  exact trivial

/-- The mapper the state after reset has (notes/assumptions/5.md). -/
def resetMapper : Mapper := { flat := [], banks := [], bankCount := 0, pt := identityPageTable }

theorem resetMapper_valid : resetMapper.Valid where
  flat_wf := Memory.wf_nil
  flat_size := by intro c hc; cases hc
  banks_wf := Memory.wf_nil
  banks_size := by intro c hc; cases hc
  entries := identityPageTable_valid 0
  low_slots i _ := identityPageTable_get i

theorem reset_eq_bootSession : State.reset = bootSession defaultParams (readRegisters State.reset) resetMapper := rfl

theorem identityMap_lowPagesPrivate {s : State} (h : s.identityMap) : s.LowPagesPrivate := by
  refine ⟨?_, ?_, fun i hi => ?_⟩
  · rw [h]; rfl
  · rw [h]; rfl
  · rw [h, identityPageTable_get]
    constructor
    all_goals
      intro heq
      have := congrArg Fin.val (PageEntry.flat.inj heq)
      omega

theorem bootSession_pc (params : Params) (r : RegisterFile) (m : Mapper) :
    let b := bootSession params r m
    b.pc.toNat = (memRead b 0xFFFC).toNat + 256 * (memRead b 0xFFFD).toNat :=
  word_toNat _ _

/-- Settles O46: the fields of a session by evaluation; the reset state is a session over a valid mapper, and its unlisted
bytes are equal in all images. -/
theorem resetMeetsTheInvariants : Obligations.ResetMeetsTheInvariants := by
  refine ⟨fun params r m => ⟨rfl, rfl, rfl, rfl, rfl, rfl, rfl, rfl, rfl, rfl, bootSession_pc params r m⟩,
    reset_eq_bootSession, ?_, ?_, rfl, rfl, rfl, rfl, rfl⟩
  · rw [reset_eq_bootSession]
    exact resetMapper_valid.bootSession _ _
  · exact ⟨rfl, by decide, identityMap_lowPagesPrivate rfl, fun _ _ _ _ => rfl⟩

end Sys2Proof.Machine
end

section
/-! Loading an image (70_reset_and_hazards R320 to R324, 20_memory R62 to R68): when one is accepted, and the bytes of the mapper
built from it. -/

namespace Sys2Proof.Machine

/-! Acceptance. -/

theorem and_f0_eq_zero_iff (b : Byte) : b &&& 0xF0 = 0 ↔ b.toNat < 0x10 := by
  revert b
  decide

theorem ushiftRight_four_eq_zero_iff (b : Byte) : b >>> 4 = 0 ↔ b.toNat < 0x10 := by
  rw [← BitVec.toNat_inj, BitVec.toNat_ushiftRight, Nat.shiftRight_eq_div_pow]
  exact Nat.div_eq_zero_iff_lt (by decide)

theorem mapperNumber_eq_zero_iff (image : List Byte) :
    mapperNumber image = 0 ↔ (image.getD 6 0).toNat < 0x10 ∧ (image.getD 7 0).toNat < 0x10 := by
  refine BitVec.or_eq_zero_iff.trans (and_comm.trans (and_congr ?_ ?_))
  · exact ushiftRight_four_eq_zero_iff _
  · exact and_f0_eq_zero_iff _

theorem nes20_iff (image : List Byte) :
    nes20 image = true ↔ (image.getD 7 0).getLsbD 2 = true ∨ (image.getD 7 0).getLsbD 3 = true := by
  rw [nes20, headerByte]
  generalize image.getD 7 0 = b
  revert b
  decide

/-- Six zero fill bytes, read one by one. -/
theorem fill_zero_iff {image : List Byte} (h : 16 ≤ image.length) :
    (image.drop 10).take 6 = List.replicate 6 0 ↔ ∀ k, 10 ≤ k → k < 16 → image.getD k 0 = 0 := by
  have hlen : ((image.drop 10).take 6).length = 6 := by
    rw [List.length_take, List.length_drop]
    omega
  have hget (i : Nat) (hi : i < ((image.drop 10).take 6).length) :
      ((image.drop 10).take 6)[i] = image.getD (10 + i) 0 := by
    rw [hlen] at hi
    rw [List.getElem_take, List.getElem_drop, List.getD_eq_getElem]
  rw [List.eq_replicate_iff, and_iff_right hlen, List.forall_mem_iff_forall_getElem]
  simp only [hget, hlen]
  constructor
  · intro hz k hk hk'
    have hk10 : 10 + (k - 10) = k := by omega
    exact hk10 ▸ hz (k - 10) (by omega)
  · exact fun hz i hi => hz (10 + i) (by omega) (by omega)

theorem mem_unless {c : Prop} {_ : Decidable c} {r r' : BadRom} : r' ∈ (if c then [] else [r]) ↔ r' = r ∧ ¬ c := by
  split <;> simp [*]

theorem mem_when {c : Prop} {_ : Decidable c} {r r' : BadRom} : r' ∈ (if c then [r] else []) ↔ r' = r ∧ c := by
  split <;> simp [*]

/-- On an image that is long enough the checks that fail are the reasons that apply. -/
theorem mem_failedChecks_iff (par : LoadParams) {image : List Byte} (h : 24592 ≤ image.length) (reason : BadRom) :
    reason ∈ failedChecks par image ↔ reason.applies par image := by
  simp only [failedChecks, List.mem_append, mem_unless, mem_when]
  simp only [headerByte]
  cases reason with
  | undersized => simpa [BadRom.applies] using h
  | badTag => simp [BadRom.applies]
  | badReservedBits => simp [BadRom.applies, imp_iff_not_or]
  | badVideoStandard => simp [BadRom.applies, BitVec.lt_def]
  | badFill =>
    have hfill := fill_zero_iff (image := image) (by omega)
    simp only [reduceCtorEq, false_and, true_and, false_or, or_false, BadRom.applies, not_or, nes20_iff, hfill]
    simp [and_assoc]
  | trainerUsed => simp [BadRom.applies]
  | noPrgBanks => simp [BadRom.applies, prgBanks, headerByte, ← BitVec.toNat_inj]
  | unsupportedMapper =>
    simp only [reduceCtorEq, false_and, true_and, false_or, BadRom.applies, mapperNumber_eq_zero_iff, not_and_or, not_lt]

theorem badRomReasons_of_short (par : LoadParams) {image : List Byte} (h : image.length < 24592) :
    badRomReasons par image = [.undersized] := if_pos h

theorem badRomReasons_of_long (par : LoadParams) {image : List Byte} (h : 24592 ≤ image.length) :
    badRomReasons par image = failedChecks par image := if_neg (not_lt.mpr h)

theorem load_of_accepted {par : LoadParams} {image : List Byte} (h : badRomReasons par image = []) :
    load par image = .ok (buildMapper par (prgBanks image) (prgData image)) := by
  rw [load, h]

theorem load_of_rejected {par : LoadParams} {image : List Byte} (h : badRomReasons par image ≠ []) :
    load par image = .error (badRomReasons par image) := by
  unfold load
  split
  · next hnil => exact absurd hnil h
  · rfl

theorem load_eq_ok_iff {par : LoadParams} {image : List Byte} {m : Mapper} : load par image = .ok m ↔
    badRomReasons par image = [] ∧ buildMapper par (prgBanks image) (prgData image) = m := by
  by_cases h : badRomReasons par image = []
  · rw [load_of_accepted h, Except.ok.injEq, and_iff_right h]
  · rw [load_of_rejected h]
    exact iff_of_false nofun fun hm => h hm.1

theorem load_eq_error_iff {par : LoadParams} {image : List Byte} {reasons : List BadRom} :
    load par image = .error reasons ↔ badRomReasons par image ≠ [] ∧ badRomReasons par image = reasons := by
  by_cases h : badRomReasons par image = []
  · rw [load_of_accepted h]
    exact iff_of_false nofun fun hm => hm.1 h
  · rw [load_of_rejected h, Except.error.injEq, and_iff_right h]

/-- No reason to reject an image is reported exactly when none applies. -/
theorem badRomReasons_eq_nil_iff (par : LoadParams) (image : List Byte) :
    badRomReasons par image = [] ↔ ∀ reason, ¬ BadRom.applies par image reason := by
  by_cases h : image.length < 24592
  · rw [badRomReasons_of_short par h]
    exact iff_of_false nofun fun hall => hall .undersized h
  · rw [badRomReasons_of_long par (not_lt.mp h), List.eq_nil_iff_forall_not_mem]
    simp only [mem_failedChecks_iff par (not_lt.mp h)]

/-- Settles O60: `load` answers by `badRomReasons`, which lists the reasons that apply. -/
theorem loadAcceptsOrRejects : Obligations.LoadAcceptsOrRejects := by
  intro par image
  refine ⟨?_, fun h => ?_, fun h reasons hload => ?_⟩
  · rw [← badRomReasons_eq_nil_iff]
    simp only [load_eq_ok_iff, exists_and_left, exists_eq', and_true]
  · rw [load_eq_error_iff, badRomReasons_of_short par h]
    exact ⟨nofun, rfl⟩
  · obtain ⟨hne, rfl⟩ := load_eq_error_iff.mp hload
    refine ⟨hne, fun reason => ?_⟩
    rw [badRomReasons_of_long par h, mem_failedChecks_iff par h]

/-! The bytes of the mapper. -/

theorem getD_prgData {image : List Byte} {j : Nat} (hj : j < prgBanks image * 16384) :
    (prgData image).getD j 0 = image.getD (16 + j) 0 := by
  simp only [prgData, List.getD_eq_getElem?_getD, List.getElem?_take, if_pos hj, List.getElem?_drop]

theorem length_prgData (image : List Byte) :
    (prgData image).length = min (prgBanks image * 16384) (image.length - 16) := by
  rw [prgData, List.length_take, List.length_drop]

/-- A byte of the PRG data, where the image is long enough to hold it. -/
theorem prgData_byte {image : List Byte} {j : Nat} (hj : j < prgBanks image * 16384) (old : Byte) :
    (if j < (prgData image).length then (prgData image).getD j 0 else old) =
      if 16 + j < image.length then image.getD (16 + j) 0 else old := by
  rw [getD_prgData hj, length_prgData]
  exact if_congr (by omega) rfl rfl

/-- A block of zeros reads as zeros. -/
theorem Memory.read_writeZeros (m : Memory) (base len k : Nat) :
    Memory.read (Memory.writeBlock m base (List.replicate len 0)) k =
      if base ≤ k ∧ k < base + len then 0 else Memory.read m k := by
  rw [Memory.read_writeBlock, List.length_replicate]
  split
  · next hk => exact List.getD_replicate (h := by omega) ..
  · rfl

theorem read_zeroIoWindows (m : Memory) (k : Nat) :
    Memory.read (zeroIoWindows m) k = if 0x2000 ≤ k ∧ k < 0x4020 then 0 else Memory.read m k := by
  rw [zeroIoWindows, Memory.read_writeZeros, Memory.read_writeZeros]
  by_cases h1 : 0x4000 ≤ k ∧ k < 0x4000 + 0x20
  · rw [if_pos h1, if_pos (by omega)]
  · rw [if_neg h1]
    exact if_congr (by omega) rfl rfl

theorem read_setDeviceCells (par : LoadParams) (m : Memory) (k : Nat) : Memory.read (setDeviceCells par m) k =
    if par.sndEnAddr.toNat = k then par.sndEnValue
    else if par.joy2Addr.toNat = k then par.joyIdle
    else if par.joy1Addr.toNat = k then par.joyIdle
    else Memory.read m k := by
  rw [setDeviceCells, Memory.read_write, Memory.read_write, Memory.read_write]

/-- Away from the device cells and the I/O windows FLAT is the PRG data over INIT_MEM. -/
theorem read_flat_of_plain (par : LoadParams) (n : Nat) (prg : List Byte) {k : Nat}
    (hdev : k ∉ [par.joy1Addr.toNat, par.joy2Addr.toNat, par.sndEnAddr.toNat])
    (hio : ¬ (0x2000 ≤ k ∧ k < 0x4020)) :
    Memory.read (buildMapper par n prg).flat k = Memory.read (placePrg par.initMem n prg) k := by
  simp only [List.mem_cons, List.not_mem_nil, or_false, not_or] at hdev
  obtain ⟨h1, h2, h3⟩ := hdev
  rw [buildMapper, read_setDeviceCells, if_neg (Ne.symm h3), if_neg (Ne.symm h2), if_neg (Ne.symm h1),
    read_zeroIoWindows, if_neg hio]

theorem ioCellsAsLoaded_flat (par : LoadParams) (n : Nat) (prg : List Byte) :
    IoCellsAsLoaded par (Memory.read (buildMapper par n prg).flat) := by
  simp only [IoCellsAsLoaded, buildMapper, read_setDeviceCells, BitVec.toNat_inj, if_true]
  refine ⟨fun h1 => ?_, fun h2 => if_neg h2, fun _ _ => trivial, fun k hlo hhi hk => ?_⟩
  · rw [if_neg h1]
    split <;> rfl
  · simp only [List.mem_cons, List.not_mem_nil, or_false, not_or] at hk
    obtain ⟨hk1, hk2, hk3⟩ := hk
    rw [if_neg (Ne.symm hk3), if_neg (Ne.symm hk2), if_neg (Ne.symm hk1), read_zeroIoWindows, if_pos ⟨hlo, hhi⟩]

theorem IoCellsAsLoaded.congr {par : LoadParams} {read read' : Nat → Byte} (h : IoCellsAsLoaded par read)
    (heq : ∀ n < 65536, read' n = read n) : IoCellsAsLoaded par read' := by
  obtain ⟨h1, h2, h3, hio⟩ := h
  refine ⟨?_, ?_, ?_, fun n hlo hhi hn => ?_⟩
  · rw [heq _ par.joy1Addr.isLt]; exact h1
  · rw [heq _ par.joy2Addr.isLt]; exact h2
  · rw [heq _ par.sndEnAddr.isLt]; exact h3
  · rw [heq n (by omega)]; exact hio n hlo hhi hn

/-! Images of one or two banks. -/

/-- The PRG window of a small image: a single bank in both halves, two one after the other. -/
theorem read_placePrg_small (m : Memory) {n : Nat} (hn : n = 1 ∨ n = 2) {prg : List Byte}
    (hlen : prg.length ≤ n * 16384) {k : Nat} (hk : k < 65536) : Memory.read (placePrg m n prg) k =
      if 0x8000 ≤ k ∧ (k - 0x8000) % (n * 16384) < prg.length then prg.getD ((k - 0x8000) % (n * 16384)) 0
      else Memory.read m k := by
  rcases hn with rfl | rfl
  · rw [placePrg, if_pos rfl, Memory.read_writeBlock, Memory.read_writeBlock]
    by_cases hhigh : 0xC000 ≤ k
    · have hmod : (k - 0x8000) % (1 * 16384) = k - 0xC000 := by omega
      rw [hmod, if_neg (c := 0x8000 ≤ k ∧ k < 0x8000 + prg.length) (by omega)]
      exact if_congr (by omega) rfl rfl
    · rw [if_neg (by omega)]
      by_cases hlow : 0x8000 ≤ k
      · have hmod : (k - 0x8000) % (1 * 16384) = k - 0x8000 := by omega
        rw [hmod]
        exact if_congr (by omega) rfl rfl
      · rw [if_neg (by omega), if_neg (by omega)]
  · rw [placePrg, if_neg (by decide), if_pos rfl, Memory.read_writeBlock]
    have hmod : (k - 0x8000) % (2 * 16384) = k - 0x8000 := by omega
    rw [hmod]
    exact if_congr (by omega) rfl rfl

theorem prgBanks_ne_zero_of_load {par : LoadParams} {image : List Byte} {m : Mapper} (h : load par image = .ok m) :
    prgBanks image ≠ 0 := by
  intro hzero
  refine (badRomReasons_eq_nil_iff par image).mp (load_eq_ok_iff.mp h).1 .noPrgBanks ?_
  exact BitVec.eq_of_toNat_eq hzero

theorem length_prgData_le (image : List Byte) : (prgData image).length ≤ prgBanks image * 16384 :=
  length_prgData image ▸ Nat.min_le_left ..

/-- Settles O58: FLAT is read directly; its device cells and windows are those of `load`, and the PRG window is the image's. -/
theorem smallImageIsPlaced : Obligations.SmallImageIsPlaced := by
  intro par params r image m hload hsmall s
  have hne := prgBanks_ne_zero_of_load hload
  obtain ⟨-, rfl⟩ := load_eq_ok_iff.mp hload
  have hbanks : prgBanks image = 1 ∨ prgBanks image = 2 := by
    have : prgBanks image ≤ 2 := hsmall
    omega
  have hid : s.identityMap := if_pos hsmall
  have hread (a : Addr) : memRead s a = Memory.read (buildMapper par (prgBanks image) (prgData image)).flat a.toNat := by
    rw [memRead, State.cellOf_of_identityMap hid]
    rfl
  refine ⟨hid, if_pos hsmall, ?_, fun a ha => ⟨fun hprg => ?_, fun hplain => ?_⟩⟩
  · refine (ioCellsAsLoaded_flat par (prgBanks image) (prgData image)).congr fun n hn => ?_
    rw [hread, BitVec.toNat_ofNat, Nat.mod_eq_of_lt hn]
  all_goals
    have hdev : a.toNat ∉ [par.joy1Addr.toNat, par.joy2Addr.toNat, par.sndEnAddr.toNat] := by
      simpa [BitVec.toNat_inj] using ha
    rw [hread, read_flat_of_plain par _ _ hdev (by omega), read_placePrg_small _ hbanks (length_prgData_le image) a.isLt]
  · intro j
    have hj : j < prgBanks image * 16384 := Nat.mod_lt _ (Nat.mul_pos (Nat.pos_of_ne_zero hne) (by decide))
    simp only [hprg, true_and]
    exact prgData_byte hj _
  · rw [if_neg (by omega)]

/-! Images of more than two banks. -/

theorem largeImagePageTable_low (par : LoadParams) (i : Fin 16) (hi : i.val < 8) :
    (largeImagePageTable par).get i = .flat i := by
  obtain ⟨i, hi'⟩ := i
  have hi : i < 8 := hi
  interval_cases i <;> rfl

theorem largeImagePageTable_high (par : LoadParams) (i : Fin 8) :
    (largeImagePageTable par).get (Fin.ofNat 16 (8 + i.val)) = par.initPtHi.get i := by
  fin_cases i <;> rfl

theorem placePrg_large (m : Memory) {n : Nat} (hn : 2 < n) (prg : List Byte) : placePrg m n prg = m := by
  rw [placePrg, if_neg (by omega), if_neg (by omega)]

/-- Settles O59: each field of the mapper is the large image's branch, and the bank arrays are the PRG data as one block. -/
theorem largeImageKeepsItsBanks : Obligations.LargeImageKeepsItsBanks := by
  intro par params r image m hload hlarge s
  obtain ⟨-, rfl⟩ := load_eq_ok_iff.mp hload
  have hlarge : ¬ prgBanks image ≤ 2 := not_le.mpr hlarge
  have hcount : s.bankCount = prgBanks image := if_neg hlarge
  have hpt : s.pt = largeImagePageTable par := if_neg hlarge
  have hbanks : s.banks = Memory.writeBlock [] 0 (prgData image) := if_neg hlarge
  refine ⟨hcount, fun k j hk hj => ?_, fun i hi => hpt ▸ largeImagePageTable_low par i hi,
    fun i => hpt ▸ largeImagePageTable_high par i, ioCellsAsLoaded_flat par _ _, fun n hn hio => ?_⟩
  · have hidx : k * 16384 + j < prgBanks image * 16384 := by omega
    rw [accessBank, State.readCell, hbanks, Memory.read_writeBlock, Nat.sub_zero, Nat.zero_add, ← prgData_byte hidx]
    exact if_congr (by omega) rfl rfl
  · exact (read_flat_of_plain par _ _ hn (by omega)).trans (by rw [placePrg_large _ (not_le.mp hlarge)])

/-! The invariant. -/

theorem Memory.below_writeBlock (bs : List Byte) : ∀ (m : Memory) (base k : Nat), base + bs.length ≤ k →
    Memory.below m k → Memory.below (Memory.writeBlock m base bs) k := by
  induction bs with
  | nil => exact fun _ _ _ _ h => h
  | cons b bs ih =>
    intro m base k hk h
    rw [List.length_cons] at hk
    exact ih _ _ k (by omega) (Memory.below_write m base k b (by omega) h)

theorem placePrg_below {m : Memory} (h : Memory.below m 65536) {n : Nat} {prg : List Byte}
    (hlen : prg.length ≤ n * 16384) :
    Memory.below (placePrg m n prg) 65536 := by
  unfold placePrg
  split
  · next hn => exact Memory.below_writeBlock _ _ _ _ (by omega) (Memory.below_writeBlock _ _ _ _ (by omega) h)
  · split
    · next hn => exact Memory.below_writeBlock _ _ _ _ (by omega) h
    · exact h

theorem zeroIoWindows_below {m : Memory} (h : Memory.below m 65536) : Memory.below (zeroIoWindows m) 65536 := by
  refine Memory.below_writeBlock _ _ _ _ ?_ (Memory.below_writeBlock _ _ _ _ ?_ h)
  · rw [List.length_replicate]
    decide
  · rw [List.length_replicate]
    decide

theorem setDeviceCells_below (par : LoadParams) {m : Memory} (h : Memory.below m 65536) :
    Memory.below (setDeviceCells par m) 65536 :=
  Memory.below_write _ _ _ _ par.sndEnAddr.isLt (Memory.below_write _ _ _ _ par.joy2Addr.isLt
    (Memory.below_write _ _ _ _ par.joy1Addr.isLt h))

theorem largeImagePageTable_valid {par : LoadParams} {n : Nat} (h : ∀ i, (par.initPtHi.get i).valid n) (i : Fin 16) :
    ((largeImagePageTable par).get i).valid n := by
  by_cases hi : i.val < 8
  · rw [largeImagePageTable_low par i hi]
    exact trivial
  · have hhigh := largeImagePageTable_high par ⟨i.val - 8, by omega⟩
    have heq : Fin.ofNat 16 (8 + (i.val - 8)) = i := by
      apply Fin.ext
      rw [Fin.val_ofNat]
      omega
    rw [heq] at hhigh
    rw [hhigh]
    exact h _

/-- The mapper built from canonical initial contents and PRG data of `n` banks is valid. -/
theorem buildMapper_valid {par : LoadParams} {n : Nat} {prg : List Byte} (hwf : Memory.wf par.initMem)
    (hsize : Memory.below par.initMem 65536) (hpt : 2 < n → ∀ i, (par.initPtHi.get i).valid n)
    (hlen : prg.length ≤ n * 16384) : (buildMapper par n prg).Valid := by
  obtain ⟨hflat, hbanks⟩ := buildMapper_wf par n prg hwf
  have hflat' : Memory.below (buildMapper par n prg).flat 65536 :=
    setDeviceCells_below par (zeroIoWindows_below (placePrg_below hsize hlen))
  by_cases hn : n ≤ 2
  · have hcells : (buildMapper par n prg).banks = [] := if_pos hn
    have htable : (buildMapper par n prg).pt = identityPageTable := if_pos hn
    refine ⟨hflat, hflat', hbanks, ?_, ?_, ?_⟩
    · rw [hcells]
      exact fun _ hc => absurd hc List.not_mem_nil
    · rw [htable]
      exact identityPageTable_valid _
    · rw [htable]
      exact fun i _ => identityPageTable_get i
  · have hcells : (buildMapper par n prg).banks = Memory.writeBlock [] 0 prg := if_neg hn
    have htable : (buildMapper par n prg).pt = largeImagePageTable par := if_neg hn
    have hcount : (buildMapper par n prg).bankCount = n := if_neg hn
    refine ⟨hflat, hflat', hbanks, ?_, ?_, ?_⟩
    · rw [hcells, hcount]
      exact Memory.below_writeBlock _ _ _ _ (by omega) fun _ hc => absurd hc List.not_mem_nil
    · rw [htable, hcount]
      exact largeImagePageTable_valid (hpt (not_le.mp hn))
    · rw [htable]
      exact largeImagePageTable_low par

/-- Settles O47: the mapper that `load` builds is valid, and so the sessions over it meet the invariant. -/
theorem loadedSessionMeetsTheInvariant : Obligations.LoadedSessionMeetsTheInvariant := by
  intro par params r image m hwf hsize hpt hload
  obtain ⟨-, rfl⟩ := load_eq_ok_iff.mp hload
  have hvalid := buildMapper_valid hwf hsize hpt (length_prgData_le image)
  exact ⟨hvalid.constructSession params r, hvalid.bootSession params r⟩

end Sys2Proof.Machine
end
